-- ==== Sys2Proof/Word.lean ====
section
/-!
DEFINITION. Word.lean: the word types of the CHIP-8 core.
Every value of the machine is unsigned (00_scope.md R11) and bit 0 is the least significant bit (R10).
-/
namespace Sys2Proof

/-- A byte: a general register, a timer, a byte of memory (10_state.md R30, R43, R49). -/
abbrev Byte := BitVec 8

/-- A 16-bit word: `pc`, `I`, a return address, an opcode (10_state.md R33, R41, R46; 30_encoding.md R100). -/
abbrev Word := BitVec 16

/-- A register index, the field X or Y of an opcode (30_encoding.md R101): all 16 are registers (10_state.md R30). -/
abbrev Reg := BitVec 4

/-- A 4-bit literal, the field N of an opcode (30_encoding.md R101). -/
abbrev Nibble := BitVec 4

/-- A 12-bit address literal, the field NNN of an opcode (30_encoding.md R101). -/
abbrev Addr := BitVec 12

/-- A value of the keypad, 0 to 15 (10_state.md R52). -/
abbrev Key := BitVec 4

end Sys2Proof
end

