-- ==== Sys2Proof/Syntax.lean ====
section
/-!
DEFINITION. Syntax.lean: the 34 instructions of spec/opcode_table.json (30_encoding.md R103), one constructor a row.
The operands are the fields of R101 that the row names: `x` and `y` are X and Y, `nn` is NN, `nnn` is NNN, `n` is N.
-/
namespace Sys2Proof

/-- One constructor per row of the opcode map (30_encoding.md R103). -/
inductive Instr where
  /-- `00E0` CLS, 44_display.md R180. -/
  | cls
  /-- `00EE` RET, 40_flow.md R130. -/
  | ret
  /-- `1NNN` JP, 40_flow.md R131. -/
  | jp (nnn : Addr)
  /-- `2NNN` CALL, 40_flow.md R132. -/
  | call (nnn : Addr)
  /-- `3XNN` SE_IMM, 41_skip.md R140. -/
  | seImm (x : Reg) (nn : Byte)
  /-- `4XNN` SNE_IMM, 41_skip.md R141. -/
  | sneImm (x : Reg) (nn : Byte)
  /-- `5XY0` SE_REG, 41_skip.md R142. -/
  | seReg (x y : Reg)
  /-- `6XNN` LD_IMM, 42_const.md R150. -/
  | ldImm (x : Reg) (nn : Byte)
  /-- `7XNN` ADD_IMM, 42_const.md R151. -/
  | addImm (x : Reg) (nn : Byte)
  /-- `8XY0` LD_REG, 43_alu.md R161. -/
  | ldReg (x y : Reg)
  /-- `8XY1` OR, 43_alu.md R162. -/
  | or (x y : Reg)
  /-- `8XY2` AND, 43_alu.md R163. -/
  | and (x y : Reg)
  /-- `8XY3` XOR, 43_alu.md R164. -/
  | xor (x y : Reg)
  /-- `8XY4` ADD_REG, 43_alu.md R165. -/
  | addReg (x y : Reg)
  /-- `8XY5` SUB, 43_alu.md R166. -/
  | sub (x y : Reg)
  /-- `8XY6` SHR, 43_alu.md R167. -/
  | shr (x y : Reg)
  /-- `8XY7` SUBN, 43_alu.md R168. -/
  | subn (x y : Reg)
  /-- `8XYE` SHL, 43_alu.md R169. -/
  | shl (x y : Reg)
  /-- `9XY0` SNE_REG, 41_skip.md R143. -/
  | sneReg (x y : Reg)
  /-- `ANNN` LD_I, 46_index_memory.md R200. -/
  | ldI (nnn : Addr)
  /-- `BNNN` JP_OFF, 40_flow.md R133: the row names both NNN and the overlapping X, which is the high nibble of NNN. -/
  | jpOff (x : Reg) (nnn : Addr)
  /-- `CXNN` RND, 42_const.md R152. -/
  | rnd (x : Reg) (nn : Byte)
  /-- `DXYN` DRW, 44_display.md R182. -/
  | drw (x y : Reg) (n : Nibble)
  /-- `EX9E` SKP, 45_keypad_timers.md R190. -/
  | skp (x : Reg)
  /-- `EXA1` SKNP, 45_keypad_timers.md R191. -/
  | sknp (x : Reg)
  /-- `FX07` LD_VX_DT, 45_keypad_timers.md R193. -/
  | ldVxDt (x : Reg)
  /-- `FX0A` LD_VX_K, 45_keypad_timers.md R192. -/
  | ldVxK (x : Reg)
  /-- `FX15` LD_DT_VX, 45_keypad_timers.md R194. -/
  | ldDtVx (x : Reg)
  /-- `FX18` LD_ST_VX, 45_keypad_timers.md R195. -/
  | ldStVx (x : Reg)
  /-- `FX1E` ADD_I, 46_index_memory.md R201. -/
  | addI (x : Reg)
  /-- `FX29` LD_F, 44_display.md R183. -/
  | ldF (x : Reg)
  /-- `FX33` LD_B, 46_index_memory.md R202. -/
  | ldB (x : Reg)
  /-- `FX55` ST_REGS, 46_index_memory.md R203. -/
  | stRegs (x : Reg)
  /-- `FX65` LD_REGS, 46_index_memory.md R204. -/
  | ldRegs (x : Reg)
  deriving DecidableEq, Repr

/-- The mnemonic column of the opcode map (30_encoding.md R103). -/
def Instr.mnemonic : Instr → String
  | .cls => "CLS"
  | .ret => "RET"
  | .jp _ => "JP"
  | .call _ => "CALL"
  | .seImm _ _ => "SE_IMM"
  | .sneImm _ _ => "SNE_IMM"
  | .seReg _ _ => "SE_REG"
  | .ldImm _ _ => "LD_IMM"
  | .addImm _ _ => "ADD_IMM"
  | .ldReg _ _ => "LD_REG"
  | .or _ _ => "OR"
  | .and _ _ => "AND"
  | .xor _ _ => "XOR"
  | .addReg _ _ => "ADD_REG"
  | .sub _ _ => "SUB"
  | .shr _ _ => "SHR"
  | .subn _ _ => "SUBN"
  | .shl _ _ => "SHL"
  | .sneReg _ _ => "SNE_REG"
  | .ldI _ => "LD_I"
  | .jpOff _ _ => "JP_OFF"
  | .rnd _ _ => "RND"
  | .drw _ _ _ => "DRW"
  | .skp _ => "SKP"
  | .sknp _ => "SKNP"
  | .ldVxDt _ => "LD_VX_DT"
  | .ldVxK _ => "LD_VX_K"
  | .ldDtVx _ => "LD_DT_VX"
  | .ldStVx _ => "LD_ST_VX"
  | .addI _ => "ADD_I"
  | .ldF _ => "LD_F"
  | .ldB _ => "LD_B"
  | .stRegs _ => "ST_REGS"
  | .ldRegs _ => "LD_REGS"

/-- Why the decoder turns bytes down: fewer than two bytes, or an unrecognized word of the group named
(30_encoding.md R104). Safe: what the machine then does is 30_encoding.md R105. -/
inductive Reject where
  /-- Fewer than two bytes are given (R100: every instruction is two bytes). -/
  | truncated
  /-- A `0NNN` other than 0x00E0 and 0x00EE. -/
  | group0
  /-- A `5XYN` with N not 0. -/
  | group5
  /-- An `8XYN` with N in 8, 9, A, B, C, D, F. -/
  | group8
  /-- A `9XYN` with N not 0. -/
  | group9
  /-- An `EXNN` with NN neither 0x9E nor 0xA1. -/
  | groupE
  /-- An `FXNN` with NN none of the nine sub-selectors. -/
  | groupF
  deriving DecidableEq, Repr

/-- A row of the opcode map as the spec prints it: mnemonic, mask and match (30_encoding.md R103). -/
structure OpcodeRow where
  /-- The row's unique name. -/
  mnemonic : String
  /-- The bits the row fixes. -/
  mask : Word
  /-- Their values. -/
  pattern : Word
  deriving DecidableEq, Repr

end Sys2Proof
end

