-- ==== Sys2Proof/Decode.lean ====
section
/-!
DEFINITION. Decode.lean: the decoder, total on any bytes and rejecting by name, and the encoder.
Both are written from the encodings of 30_encoding.md R101 and R103.
-/
namespace Sys2Proof

/-- The operation group G, bits 15 to 12 (30_encoding.md R101). -/
def opG (w : Word) : BitVec 4 := w.extractLsb' 12 4

/-- The field X, bits 11 to 8 (30_encoding.md R101). -/
def opX (w : Word) : Reg := w.extractLsb' 8 4

/-- The field Y, bits 7 to 4 (30_encoding.md R101). -/
def opY (w : Word) : Reg := w.extractLsb' 4 4

/-- The field N, bits 3 to 0 (30_encoding.md R101). -/
def opN (w : Word) : Nibble := w.extractLsb' 0 4

/-- The field NN, bits 7 to 0 (30_encoding.md R101). -/
def opNN (w : Word) : Byte := w.extractLsb' 0 8

/-- The field NNN, bits 11 to 0 (30_encoding.md R101). -/
def opNNN (w : Word) : Addr := w.extractLsb' 0 12

/-- Group 0: two exact words, every other one is unrecognized (30_encoding.md R103, R104). -/
def decodeGroup0 (w : Word) : Except Reject Instr :=
  if w = 0x00E0#16 then .ok .cls
  else if w = 0x00EE#16 then .ok .ret
  else .error .group0

/-- Group 5: the low nibble is a sub-selector that must be 0 (30_encoding.md R104, decision D13). -/
def decodeGroup5 (w : Word) : Except Reject Instr :=
  if opN w = 0x0#4 then .ok (.seReg (opX w) (opY w)) else .error .group5

/-- Group 8: the arithmetic and logic family, keyed on N (30_encoding.md R103). -/
def decodeGroup8 (w : Word) : Except Reject Instr :=
  if opN w = 0x0#4 then .ok (.ldReg (opX w) (opY w))
  else if opN w = 0x1#4 then .ok (.or (opX w) (opY w))
  else if opN w = 0x2#4 then .ok (.and (opX w) (opY w))
  else if opN w = 0x3#4 then .ok (.xor (opX w) (opY w))
  else if opN w = 0x4#4 then .ok (.addReg (opX w) (opY w))
  else if opN w = 0x5#4 then .ok (.sub (opX w) (opY w))
  else if opN w = 0x6#4 then .ok (.shr (opX w) (opY w))
  else if opN w = 0x7#4 then .ok (.subn (opX w) (opY w))
  else if opN w = 0xE#4 then .ok (.shl (opX w) (opY w))
  else .error .group8

/-- Group 9: the low nibble is a sub-selector that must be 0 (30_encoding.md R104, decision D13). -/
def decodeGroup9 (w : Word) : Except Reject Instr :=
  if opN w = 0x0#4 then .ok (.sneReg (opX w) (opY w)) else .error .group9

/-- Group E: the two key skips, keyed on NN (30_encoding.md R103). -/
def decodeGroupE (w : Word) : Except Reject Instr :=
  if opNN w = 0x9E#8 then .ok (.skp (opX w))
  else if opNN w = 0xA1#8 then .ok (.sknp (opX w))
  else .error .groupE

/-- Group F: nine instructions, keyed on NN (30_encoding.md R103). -/
def decodeGroupF (w : Word) : Except Reject Instr :=
  if opNN w = 0x07#8 then .ok (.ldVxDt (opX w))
  else if opNN w = 0x0A#8 then .ok (.ldVxK (opX w))
  else if opNN w = 0x15#8 then .ok (.ldDtVx (opX w))
  else if opNN w = 0x18#8 then .ok (.ldStVx (opX w))
  else if opNN w = 0x1E#8 then .ok (.addI (opX w))
  else if opNN w = 0x29#8 then .ok (.ldF (opX w))
  else if opNN w = 0x33#8 then .ok (.ldB (opX w))
  else if opNN w = 0x55#8 then .ok (.stRegs (opX w))
  else if opNN w = 0x65#8 then .ok (.ldRegs (opX w))
  else .error .groupF

/-- Decode of one word: select by the group and, where the group has one, by the sub-selector
(30_encoding.md R102, R107). -/
def decodeWord (w : Word) : Except Reject Instr :=
  if opG w = 0x0#4 then decodeGroup0 w
  else if opG w = 0x1#4 then .ok (.jp (opNNN w))
  else if opG w = 0x2#4 then .ok (.call (opNNN w))
  else if opG w = 0x3#4 then .ok (.seImm (opX w) (opNN w))
  else if opG w = 0x4#4 then .ok (.sneImm (opX w) (opNN w))
  else if opG w = 0x5#4 then decodeGroup5 w
  else if opG w = 0x6#4 then .ok (.ldImm (opX w) (opNN w))
  else if opG w = 0x7#4 then .ok (.addImm (opX w) (opNN w))
  else if opG w = 0x8#4 then decodeGroup8 w
  else if opG w = 0x9#4 then decodeGroup9 w
  else if opG w = 0xA#4 then .ok (.ldI (opNNN w))
  else if opG w = 0xB#4 then .ok (.jpOff (opX w) (opNNN w))
  else if opG w = 0xC#4 then .ok (.rnd (opX w) (opNN w))
  else if opG w = 0xD#4 then .ok (.drw (opX w) (opY w) (opN w))
  else if opG w = 0xE#4 then decodeGroupE w
  else decodeGroupF w

/-- The opcode of two bytes, the first in bits 15 to 8 (20_memory.md R73). -/
def wordOfBytes (hi lo : Byte) : Word := hi ++ lo

/-- The two bytes of an opcode as memory holds them, high byte first (30_encoding.md R100). -/
def bytesOfWord (w : Word) : List Byte := [w.extractLsb' 8 8, w.extractLsb' 0 8]

/-- Decode of a byte stream: every instruction is two bytes (30_encoding.md R100). Answers the instruction and the bytes
after it. -/
def decode : List Byte → Except Reject (Instr × List Byte)
  | hi :: lo :: rest => (decodeWord (wordOfBytes hi lo)).map (fun i => (i, rest))
  | [_] => .error .truncated
  | [] => .error .truncated

/-- A word of form `G NNN` (30_encoding.md R101). -/
def formNNN (g : BitVec 4) (nnn : Addr) : Word := g ++ nnn

/-- A word of form `G X NN` (30_encoding.md R101). -/
def formXNN (g : BitVec 4) (x : Reg) (nn : Byte) : Word := g ++ x ++ nn

/-- A word of form `G X Y N` (30_encoding.md R101). -/
def formXYN (g : BitVec 4) (x y : Reg) (n : Nibble) : Word := g ++ x ++ y ++ n

/-- The word of an instruction, by the encoding column of spec/opcode_table.json (30_encoding.md R103). -/
def encodeWord : Instr → Word
  | .cls => 0x00E0#16
  | .ret => 0x00EE#16
  | .jp nnn => formNNN 0x1#4 nnn
  | .call nnn => formNNN 0x2#4 nnn
  | .seImm x nn => formXNN 0x3#4 x nn
  | .sneImm x nn => formXNN 0x4#4 x nn
  | .seReg x y => formXYN 0x5#4 x y 0x0#4
  | .ldImm x nn => formXNN 0x6#4 x nn
  | .addImm x nn => formXNN 0x7#4 x nn
  | .ldReg x y => formXYN 0x8#4 x y 0x0#4
  | .or x y => formXYN 0x8#4 x y 0x1#4
  | .and x y => formXYN 0x8#4 x y 0x2#4
  | .xor x y => formXYN 0x8#4 x y 0x3#4
  | .addReg x y => formXYN 0x8#4 x y 0x4#4
  | .sub x y => formXYN 0x8#4 x y 0x5#4
  | .shr x y => formXYN 0x8#4 x y 0x6#4
  | .subn x y => formXYN 0x8#4 x y 0x7#4
  | .shl x y => formXYN 0x8#4 x y 0xE#4
  | .sneReg x y => formXYN 0x9#4 x y 0x0#4
  | .ldI nnn => formNNN 0xA#4 nnn
  | .jpOff _ nnn => formNNN 0xB#4 nnn
  | .rnd x nn => formXNN 0xC#4 x nn
  | .drw x y n => formXYN 0xD#4 x y n
  | .skp x => formXNN 0xE#4 x 0x9E#8
  | .sknp x => formXNN 0xE#4 x 0xA1#8
  | .ldVxDt x => formXNN 0xF#4 x 0x07#8
  | .ldVxK x => formXNN 0xF#4 x 0x0A#8
  | .ldDtVx x => formXNN 0xF#4 x 0x15#8
  | .ldStVx x => formXNN 0xF#4 x 0x18#8
  | .addI x => formXNN 0xF#4 x 0x1E#8
  | .ldF x => formXNN 0xF#4 x 0x29#8
  | .ldB x => formXNN 0xF#4 x 0x33#8
  | .stRegs x => formXNN 0xF#4 x 0x55#8
  | .ldRegs x => formXNN 0xF#4 x 0x65#8

/-- The two bytes of an instruction (30_encoding.md R100). -/
def encode (i : Instr) : List Byte := bytesOfWord (encodeWord i)

/-- The opcode map as 30_encoding.md R103 prints it: mnemonic, mask and match of each of the 34 rows. -/
def opcodeRows : List OpcodeRow :=
  [⟨"CLS", 0xFFFF, 0x00E0⟩, ⟨"RET", 0xFFFF, 0x00EE⟩, ⟨"JP", 0xF000, 0x1000⟩, ⟨"CALL", 0xF000, 0x2000⟩,
   ⟨"SE_IMM", 0xF000, 0x3000⟩, ⟨"SNE_IMM", 0xF000, 0x4000⟩, ⟨"SE_REG", 0xF00F, 0x5000⟩,
   ⟨"LD_IMM", 0xF000, 0x6000⟩, ⟨"ADD_IMM", 0xF000, 0x7000⟩] ++
  [⟨"LD_REG", 0xF00F, 0x8000⟩, ⟨"OR", 0xF00F, 0x8001⟩, ⟨"AND", 0xF00F, 0x8002⟩, ⟨"XOR", 0xF00F, 0x8003⟩,
   ⟨"ADD_REG", 0xF00F, 0x8004⟩, ⟨"SUB", 0xF00F, 0x8005⟩, ⟨"SHR", 0xF00F, 0x8006⟩, ⟨"SUBN", 0xF00F, 0x8007⟩,
   ⟨"SHL", 0xF00F, 0x800E⟩] ++
  [⟨"SNE_REG", 0xF00F, 0x9000⟩, ⟨"LD_I", 0xF000, 0xA000⟩, ⟨"JP_OFF", 0xF000, 0xB000⟩, ⟨"RND", 0xF000, 0xC000⟩,
   ⟨"DRW", 0xF000, 0xD000⟩, ⟨"SKP", 0xF0FF, 0xE09E⟩, ⟨"SKNP", 0xF0FF, 0xE0A1⟩] ++
  [⟨"LD_VX_DT", 0xF0FF, 0xF007⟩, ⟨"LD_VX_K", 0xF0FF, 0xF00A⟩, ⟨"LD_DT_VX", 0xF0FF, 0xF015⟩,
   ⟨"LD_ST_VX", 0xF0FF, 0xF018⟩, ⟨"ADD_I", 0xF0FF, 0xF01E⟩, ⟨"LD_F", 0xF0FF, 0xF029⟩, ⟨"LD_B", 0xF0FF, 0xF033⟩,
   ⟨"ST_REGS", 0xF0FF, 0xF055⟩, ⟨"LD_REGS", 0xF0FF, 0xF065⟩]

/-- A word matches a row when `op AND mask = match` (30_encoding.md R103). -/
def OpcodeRow.covers (r : OpcodeRow) (w : Word) : Bool := w &&& r.mask == r.pattern

/-- The opcode whose bits spec/opcode_table.json numbers as `w`, of which `nbits` are given and the rest are 0. One word
is the whole instruction, so bit k of `w` is bit k of the opcode. -/
def tableWord (nbits w : Nat) : Word := BitVec.ofNat 16 (if nbits < 16 then w % 2 ^ nbits else w)

/-- What the decoder reads from the instruction whose bits are `w`, laid out in memory order. -/
def decodeTableWord (nbits w : Nat) : Option Instr :=
  match decode (bytesOfWord (tableWord nbits w)) with
  | .ok (i, _) => some i
  | .error _ => none

end Sys2Proof
end

