-- ==== Sys2Proof/Config.lean ====
section
/-!
DEFINITION. Config.lean: the parameters of 00_scope.md R8 and R9, the values the spec fixes, and the one free value.
-/
namespace Sys2Proof

/-- Bytes of memory, MEM_SIZE (00_scope.md R9). -/
def memSize : Nat := 4096

/-- Framebuffer width, FB_W (00_scope.md R9). -/
abbrev fbWidth : Nat := 64

/-- Framebuffer height, FB_H (00_scope.md R9). -/
abbrev fbHeight : Nat := 32

/-- Address of glyph 0, FONT_BASE (00_scope.md R9). -/
def fontBase : Nat := 0x050

/-- Bytes a glyph, GLYPH_BYTES (00_scope.md R9). -/
def glyphBytes : Nat := 5

/-- Load address and reset `pc`, PROG_BASE (00_scope.md R9). -/
def progBase : Nat := 0x200

/-- Largest program image in bytes, MAX_IMAGE (00_scope.md R9). -/
def maxImage : Nat := memSize - progBase

/-- The 80 glyph bytes, FONT_ROM (00_scope.md R9, 10_state.md R47). -/
abbrev FontRom := Vector Byte 80

/-- What an unrecognized opcode does, ILLEGAL_POLICY (30_encoding.md R105). -/
inductive IllegalPolicy where
  /-- Raise IllegalInstruction and halt. -/
  | fault
  /-- A two-byte no-operation. -/
  | skip
  deriving DecidableEq, Repr

/-- The three quirk toggles, one bit each, arguments of the construction (00_scope.md R8, 10_state.md R45). -/
structure Quirks where
  /-- Q_SHIFT: false shifts `V[Y]` into `V[X]`, true shifts `V[X]` in place (43_alu.md R167, R169; 90_conflicts.md C5). -/
  shift : Bool
  /-- Q_JUMP: true makes BNNN add `V[X]` (40_flow.md R133). -/
  jump : Bool
  /-- Q_MEM: true leaves `I` unchanged in FX55 and FX65 (46_index_memory.md R203, R204). -/
  mem : Bool
  deriving DecidableEq, Repr

/-- The parameters of 00_scope.md R9 that the model takes as an argument. -/
structure Params where
  /-- STACK_DEPTH, the entries of the call stack (10_state.md R46). -/
  stackDepth : Nat
  /-- FONT_ROM (10_state.md R47). -/
  fontRom : FontRom
  /-- ADDI_THRESHOLD, the flag threshold of FX1E (46_index_memory.md R201). -/
  addiThreshold : Nat
  /-- ILLEGAL_POLICY (30_encoding.md R105). -/
  illegalPolicy : IllegalPolicy
  /-- FONT_INDEX_MASK, whether FX29 uses the low nibble of `V[X]` only (44_display.md R183). -/
  fontIndexMask : Bool
  deriving DecidableEq, Repr

/-- The default of FONT_ROM: the table of 10_state.md R47, which the spec takes from general knowledge (log 9). -/
def defaultFontRom : FontRom :=
  #v[0xF0, 0x90, 0x90, 0x90, 0xF0, 0x20, 0x60, 0x20, 0x20, 0x70,
     0xF0, 0x10, 0xF0, 0x80, 0xF0, 0xF0, 0x10, 0xF0, 0x10, 0xF0,
     0x90, 0x90, 0xF0, 0x10, 0x10, 0xF0, 0x80, 0xF0, 0x10, 0xF0,
     0xF0, 0x80, 0xF0, 0x90, 0xF0, 0xF0, 0x10, 0x20, 0x40, 0x40,
     0xF0, 0x90, 0xF0, 0x90, 0xF0, 0xF0, 0x90, 0xF0, 0x10, 0xF0,
     0xF0, 0x90, 0xF0, 0x90, 0x90, 0xE0, 0x90, 0xE0, 0x90, 0xE0,
     0xF0, 0x80, 0x80, 0x80, 0xF0, 0xE0, 0x90, 0x90, 0x90, 0xE0,
     0xF0, 0x80, 0xF0, 0x80, 0xF0, 0xF0, 0x80, 0xF0, 0x80, 0x80]

/-- The defaults of 00_scope.md R9. -/
def defaultParams : Params where
  stackDepth := 16
  fontRom := defaultFontRom
  addiThreshold := 255
  illegalPolicy := .fault
  fontIndexMask := true

/-- The toggles of `State.reset`. DESIGN CHOICE: the spec gives no default; all three off (log 6). Unsafe for a claim
that rests on them; a claim over every state holds for every setting. -/
def defaultQuirks : Quirks where
  shift := false
  jump := false
  mem := false

/-- The byte the environment draws for the `n`-th RND (42_const.md R152). A FREE VALUE: it has no body, so no proof can
see it (log 7). Safe. -/
opaque Config.draw (n : Nat) : Byte

end Sys2Proof
end

