-- ==== Sys2Proof/Machine/State.lean ====
section
/-!
DEFINITION. Machine/State.lean: the state of the core, as plain data, and the reasons a step can stop.
The spec's state is the tuple of 10_state.md; `params` holds the parameters of 00_scope.md R9; the last four fields are
the model's own (INVENTORY.md, State).
-/
namespace Sys2Proof.Machine

/-- The faults the core records in its fault register (60_exceptions.md R221). Raising one is a next state (R220), not a
stop of the model. -/
inductive FaultKind where
  /-- Code 1, raised by Fetch when `pc` is 4095 or more (20_memory.md R80). -/
  | fetchOutOfRange
  /-- Code 2, raised by Decode on an unrecognized word under the policy Fault (30_encoding.md R105). -/
  | illegalInstruction
  /-- Code 3, raised by RET on an empty stack (40_flow.md R130). -/
  | stackUnderflow
  /-- Code 4, raised by CALL on a full stack (40_flow.md R132). -/
  | stackOverflow
  /-- Code 5, raised by DRW, LD_B, ST_REGS and LD_REGS on a data address above 4095 (20_memory.md R76, R77). -/
  | memOutOfRange
  deriving DecidableEq, Repr

/-- Memory as a list of cells in canonical form: addresses strictly rising, none equal to what an unlisted address reads
as (`resetByte` of Machine/Ops.lean). -/
abbrev Memory := List Host.Cell

/-- The framebuffer: 32 rows of 64 booleans (10_state.md R50). -/
abbrev Framebuffer := Vector (Vector Bool fbWidth) fbHeight

/-- One atomic step of one agent (00_scope.md R6, 60_exceptions.md R247). -/
inductive AgentMove where
  /-- The CPU: one instruction cycle (00_scope.md R7). -/
  | cpu
  /-- The timer agent: one tick (60_exceptions.md R236). -/
  | tick
  /-- The key agent: one `set-key` (60_exceptions.md R241). A value above 15 cannot be written (decision D19). -/
  | setKey (k : Option Key)
  /-- The host: `load-program` (60_exceptions.md R242). -/
  | loadProgram (image : List Byte)
  /-- The host: `get-framebuffer` (60_exceptions.md R243). -/
  | getFramebuffer
  /-- The host: reset, with the construction arguments (60_exceptions.md R240). -/
  | reset (q : Quirks) (p : Params)
  deriving DecidableEq, Repr

/-- Everything the spec gives the core (10_state.md, the tuple at its head), the parameters, and the model's own fields. -/
structure State where
  /-- `V[0..15]`; `V[15]` is VF (10_state.md R30, R38). -/
  v : Vector Byte 16
  /-- `pc` (10_state.md R33). -/
  pc : Word
  /-- `I` (10_state.md R41). -/
  index : Word
  /-- The live entries of the call stack, the newest first; `sp` is the length (10_state.md R46). -/
  stack : List Word
  /-- `DT` (10_state.md R43). -/
  dt : Byte
  /-- `ST` (10_state.md R43). -/
  st : Byte
  /-- `mem` (10_state.md R49). -/
  mem : Memory
  /-- `fb` (10_state.md R50). -/
  fb : Framebuffer
  /-- `key`, the key latch (10_state.md R52). -/
  key : Option Key
  /-- `Q_SHIFT`, `Q_JUMP`, `Q_MEM` (10_state.md R45). -/
  quirks : Quirks
  /-- `fault`: `none` is the spec's None (10_state.md R58). -/
  fault : Option FaultKind
  /-- `fault_addr` (10_state.md R58). -/
  faultAddr : Word
  /-- `fault_opcode` (10_state.md R58). -/
  faultOpcode : Word
  /-- The parameters of 00_scope.md R9, fixed from one construction to the next. -/
  params : Params
  /-- The model's own: `load-program` is enabled, no cycle and no load has come since the reset (60_exceptions.md R247). -/
  loadable : Bool
  /-- The model's own: the load since the reset has failed, so that no cycle may run (60_exceptions.md R242, log 14). -/
  loadFailed : Bool
  /-- The model's own: the agent moves that come next; when none is listed the CPU moves (00_scope.md R6, log 3). -/
  schedule : List AgentMove
  /-- The model's own: how many bytes RND has drawn, which picks the next free value (42_const.md R152, log 7). -/
  draws : Nat
  deriving DecidableEq, Repr

/-- Why a step stops with the host's `fault` outcome. -/
inductive Fault where
  /-- Raised by the CPU's move after a `load-program` whose image had more than 3584 bytes: "fail (ROM-load error); state
  unchanged; no cycle may run" (60_exceptions.md R242). Safe: the spec allows no cycle there until a reset, and every other
  agent still moves. -/
  | romLoadError
  deriving DecidableEq, Repr

/-- Why a step has no next state though nothing failed. -/
inductive Refusal where
  /-- Raised by `exec` for an instruction the model gives no meaning. Safe. No arm of this model uses it. -/
  | notModelled (mnemonic : String)
  /-- Raised by the CPU's move while a fault is recorded: "no instruction cycle is enabled" (10_state.md R58,
  60_exceptions.md R224; 93_implementation_defined.md U17). Safe: the hardware runs no cycle either. -/
  | halted (kind : FaultKind)
  /-- Raised by `load-program` at any time but between a reset and the first cycle: the spec gives it "no move at any
  other time" (60_exceptions.md R242, decision D19; 93_implementation_defined.md U18). Safe. -/
  | loadNotEnabled
  deriving DecidableEq, Repr

/-- The three outcomes of a step of this machine. -/
abbrev Result := Host.Outcome State Fault Refusal

/-- The state right after a reset with the construction arguments `q` and `p` (10_state.md R55, 60_exceptions.md R240).
Memory lists nothing: an unlisted byte reads as the reset content, zero or the font (10_state.md R47). -/
def State.resetWith (q : Quirks) (p : Params) : State where
  v := Vector.replicate 16 0
  pc := BitVec.ofNat 16 progBase
  index := 0
  stack := []
  dt := 0
  st := 0
  mem := []
  fb := Vector.replicate fbHeight (Vector.replicate fbWidth false)
  key := none
  quirks := q
  fault := none
  faultAddr := 0
  faultOpcode := 0
  params := p
  loadable := true
  loadFailed := false
  schedule := []
  draws := 0

/-- The machine right after reset, with the default parameters of 00_scope.md R9 and the toggles of log 6. -/
def State.reset : State := State.resetWith defaultQuirks defaultParams

end Sys2Proof.Machine
end

