-- ==== Sys2Proof/Machine/Ops.lean ====
section
/-!
DEFINITION. Machine/Ops.lean: the named operations over registers, memory, stack and framebuffer, Fetch, and raising a
fault. Every read and write of the state's parts goes through here.
-/
namespace Sys2Proof.Machine

/-! ### General registers -/

/-- `V[x]` (00_scope.md R12). -/
def State.reg (s : State) (x : Reg) : Byte := s.v[x.toNat]'x.isLt

/-- `V[x] <- b` (00_scope.md R12). No register is hardwired (10_state.md R30). -/
def State.setReg (x : Reg) (b : Byte) (s : State) : State := { s with v := s.v.set x.toNat b x.isLt }

/-- VF, the flag register `V[15]` (10_state.md R38). -/
def vF : Reg := 0xF#4

/-- A register file with the bytes of a list put into the registers from number `k` on, in ascending order
(46_index_memory.md R204). -/
def fillFrom (v : Vector Byte 16) : Nat → List Byte → Vector Byte 16
  | _, [] => v
  | k, b :: bs => fillFrom (v.setIfInBounds k b) (k + 1) bs

/-- `V[0 ..] <- bs`, ascending from `V[0]` (46_index_memory.md R204). -/
def State.setLowRegs (bs : List Byte) (s : State) : State := { s with v := fillFrom s.v 0 bs }

/-- `V[0..x]`, inclusive (46_index_memory.md R203). -/
def State.lowRegs (s : State) (x : Reg) : List Byte := s.v.toList.take (x.toNat + 1)

/-! ### The other registers -/

/-- `pc <- t` (00_scope.md R12). -/
def State.setPc (t : Word) (s : State) : State := { s with pc := t }

/-- A skip: `pc <- pc + 2` when the condition holds (41_skip.md). -/
def State.skipIf (c : Bool) (s : State) : State := if c then s.setPc (s.pc + 2) else s

/-- `I <- t` (00_scope.md R12). -/
def State.setIndex (t : Word) (s : State) : State := { s with index := t }

/-- `DT <- b` (45_keypad_timers.md R194). -/
def State.setDt (b : Byte) (s : State) : State := { s with dt := b }

/-- `ST <- b` (45_keypad_timers.md R195). -/
def State.setSt (b : Byte) (s : State) : State := { s with st := b }

/-- A byte has been drawn from the environment: the next draw is another one (42_const.md R152). -/
def State.drawn (s : State) : State := { s with draws := s.draws + 1 }

/-! ### Memory -/

/-- What a byte of memory that nothing has written reads as: the reset content, FONT_ROM from 0x050 on and 0 elsewhere
(10_state.md R47). -/
def resetByte (rom : FontRom) (a : Nat) : Byte :=
  if a < fontBase then 0 else (rom[a - fontBase]?).getD 0

/-- The byte at address `a`. -/
def Memory.read (rom : FontRom) : Memory → Nat → Byte
  | [], a => resetByte rom a
  | c :: cs, a => if a = c.1 then c.2 else Memory.read rom cs a

/-- The memory with `b` written at address `a`, in canonical form: writing what an unlisted address reads as removes the
cell. -/
def Memory.write (rom : FontRom) : Memory → Nat → Byte → Memory
  | [], a, b => if b = resetByte rom a then [] else [(a, b)]
  | c :: cs, a, b =>
    if a < c.1 then (if b = resetByte rom a then c :: cs else (a, b) :: c :: cs)
    else if a = c.1 then (if b = resetByte rom a then cs else (a, b) :: cs)
    else c :: Memory.write rom cs a b

/-- Bytes written one by one at increasing addresses from `a` on (20_memory.md R74). -/
def Memory.writeAll (rom : FontRom) : Memory → Nat → List Byte → Memory
  | m, _, [] => m
  | m, a, b :: bs => Memory.writeAll rom (Memory.write rom m a b) (a + 1) bs

/-- The canonical form, from a lower bound on: addresses strictly rising, below 4096, and no cell equal to what an
unlisted address reads as. -/
def Memory.wfFrom (rom : FontRom) : Nat → Memory → Bool
  | _, [] => true
  | lo, c :: cs => decide (lo ≤ c.1) && decide (c.1 < memSize) && decide (c.2 ≠ resetByte rom c.1)
      && Memory.wfFrom rom (c.1 + 1) cs

/-- The canonical form of a memory. -/
def Memory.wf (rom : FontRom) (m : Memory) : Bool := Memory.wfFrom rom 0 m

/-- The byte of the core's memory at address `a` (20_memory.md R79). -/
def State.byte (s : State) (a : Nat) : Byte := Memory.read s.params.fontRom s.mem a

/-- The `n` bytes from address `a` on all lie in memory; no byte at all always does (20_memory.md R76, R77). The address
is a natural number and never wraps (46_index_memory.md R205). -/
def inRange (a n : Nat) : Bool := n == 0 || decide (a + n ≤ memSize)

/-- `n` single-byte reads from `a` on, checked as a whole first: `none` where an address lies above 4095
(20_memory.md R76). -/
def State.load (s : State) (a n : Nat) : Option (List Byte) :=
  if inRange a n then some ((List.range n).map (fun k => s.byte (a + k))) else none

/-- Single-byte writes from `a` on, checked as a whole first: `none` where an address lies above 4095
(20_memory.md R77). -/
def State.store (a : Nat) (bs : List Byte) (s : State) : Option State :=
  if inRange a bs.length then some { s with mem := Memory.writeAll s.params.fontRom s.mem a bs } else none

/-! ### The call stack -/

/-- Push, `none` where the stack already holds STACK_DEPTH entries (10_state.md R46). -/
def State.push (t : Word) (s : State) : Option State :=
  if s.stack.length < s.params.stackDepth then some { s with stack := t :: s.stack } else none

/-- Pop, `none` on an empty stack (10_state.md R46). -/
def State.pop (s : State) : Option (Word × State) :=
  match s.stack with
  | [] => none
  | t :: rest => some (t, { s with stack := rest })

/-! ### The framebuffer -/

/-- The cell at column `x` and row `y`; false outside the grid (10_state.md R50). -/
def Framebuffer.cell (fb : Framebuffer) (x y : Nat) : Bool := ((fb[y]?).bind (fun row => row[x]?)).getD false

/-- The grid with the cell at column `x` and row `y` turned over; no change outside the grid. -/
def Framebuffer.flip (fb : Framebuffer) (x y : Nat) : Framebuffer :=
  match fb[y]? with
  | some row => fb.setIfInBounds y (row.setIfInBounds x (!Framebuffer.cell fb x y))
  | none => fb

/-- Every cell false (44_display.md R180). -/
def Framebuffer.clear : Framebuffer := Vector.replicate fbHeight (Vector.replicate fbWidth false)

/-- A framebuffer being drawn on, and whether a sprite bit has met a set cell so far (44_display.md R182). -/
structure Canvas where
  /-- The grid so far. -/
  fb : Framebuffer
  /-- A collision so far. -/
  hit : Bool
  deriving DecidableEq, Repr

/-- One sprite bit of 1 on the cell at `x`, `y`: clipped outside the grid, else a collision if the cell is set, and the
cell is turned over (44_display.md R181, R182). -/
def plot (x y : Nat) (c : Canvas) : Canvas :=
  if x < fbWidth ∧ y < fbHeight then
    { fb := Framebuffer.flip c.fb x y, hit := c.hit || Framebuffer.cell c.fb x y }
  else c

/-- The columns `k ..` of one sprite row: column `c` is bit `7 - c` of the byte and lands on `x0 + c`
(44_display.md R181). -/
def drawCols (x0 y : Nat) (b : Byte) : List Nat → Canvas → Canvas
  | [], cv => cv
  | c :: cs, cv => drawCols x0 y b cs (if b.getLsbD (7 - c) then plot (x0 + c) y cv else cv)

/-- The rows of a sprite, the first at row `y` (44_display.md R181). -/
def drawRows (x0 : Nat) : Nat → List Byte → Canvas → Canvas
  | _, [], cv => cv
  | y, b :: bs, cv => drawRows x0 (y + 1) bs (drawCols x0 y b (List.range 8) cv)

/-- The cell of the core's framebuffer at column `x` and row `y` (10_state.md R50). -/
def State.pixel (s : State) (x y : Nat) : Bool := Framebuffer.cell s.fb x y

/-- The framebuffer replaced. -/
def State.setFb (fb : Framebuffer) (s : State) : State := { s with fb := fb }

/-! ### Faults -/

/-- `raise F(a, op)`: the fault register is written and nothing else (60_exceptions.md R220). There is no handler, no
vector, no saved status and no return (R223, R224): a reset (`State.resetWith`) is the only way on. -/
def State.raise (f : FaultKind) (a op : Word) (s : State) : State :=
  { s with fault := some f, faultAddr := a, faultOpcode := op }

/-- The fault of an instruction being executed: `pc` holds its address plus 2 (10_state.md R33) and its word is its
encoding (log 13). -/
def State.raiseIn (f : FaultKind) (i : Instr) (s : State) : State := s.raise f (s.pc - 2) (encodeWord i)

/-- The code of the fault register: 0 where no fault is recorded (60_exceptions.md R221). -/
def faultCode : Option FaultKind → Nat
  | none => 0
  | some .fetchOutOfRange => 1
  | some .illegalInstruction => 2
  | some .stackUnderflow => 3
  | some .stackOverflow => 4
  | some .memOutOfRange => 5

/-! ### Fetch -/

/-- Fetch: the big-endian word at `pc`, and `pc` advanced by 2; `none` where `pc` is 4095 or more (20_memory.md R80). -/
def State.fetch (s : State) : Option (Word × State) :=
  if memSize - 1 ≤ s.pc.toNat then none
  else some (wordOfBytes (s.byte s.pc.toNat) (s.byte (s.pc.toNat + 1)), s.setPc (s.pc + 2))

/-- What an unrecognized word does after its fetch: the policy Fault raises IllegalInstruction, the policy Skip changes
nothing more (30_encoding.md R105). -/
def State.unrecognized (op : Word) (s : State) : State :=
  match s.params.illegalPolicy with
  | .fault => s.raise .illegalInstruction (s.pc - 2) op
  | .skip => s

end Sys2Proof.Machine
end

