-- ==== Sys2Proof/Machine/Agents.lean ====
section
/-!
DEFINITION. Machine/Agents.lean: the atomic steps of the agents other than the CPU (60_exceptions.md, sections 4 and 6).
They do not read the fault register: they go on while the core is halted (R226).
-/
namespace Sys2Proof.Machine

/-- A down-counter after one tick: floored at 0, never wrapping (60_exceptions.md R236). -/
def countDown (b : Byte) : Byte := if b = 0 then 0 else b - 1

/-- The timer tick: both timers in one atomic step, nothing else (60_exceptions.md R236). -/
def State.tick (s : State) : State := (s.setDt (countDown s.dt)).setSt (countDown s.st)

/-- `set-key`: the latch is overwritten, nothing else (60_exceptions.md R241). -/
def State.setKey (k : Option Key) (s : State) : State := { s with key := k }

/-- `get-framebuffer`: what the host reads, the whole grid; the state does not change (60_exceptions.md R243). -/
def State.getFramebuffer (s : State) : Framebuffer := s.fb

/-- The image's bytes copied unchanged to 0x200 on; the one load since the reset is over (60_exceptions.md R242). -/
def State.withImage (image : List Byte) (s : State) : State :=
  { s with mem := Memory.writeAll s.params.fontRom s.mem progBase image, loadable := false }

/-- A load that has failed: nothing of the core changes, and the model notes that no cycle may run
(60_exceptions.md R242, log 14). -/
def State.failLoad (s : State) : State := { s with loadable := false, loadFailed := true }

/-- `load-program`: enabled only between a reset and the first cycle, and once; an image of more than 3584 bytes fails, which
leaves the core's state unchanged and bars every cycle; else the bytes go to 0x200 on, and `pc` and all else stay
(60_exceptions.md R242). -/
def loadProgram (image : List Byte) (s : State) : Result :=
  if !s.loadable then .refused .loadNotEnabled
  else if maxImage < image.length then .next s.failLoad
  else .next (s.withImage image)

/-- Reset at any time, with the construction arguments (60_exceptions.md R240). What is not the core's own state, the
moves to come and the count of drawn bytes, goes on (log 15). -/
def State.resetBy (q : Quirks) (p : Params) (s : State) : State :=
  { State.resetWith q p with schedule := s.schedule, draws := s.draws }

end Sys2Proof.Machine
end

