-- ==== Sys2Proof/Machine/Flags.lean ====
section
/-!
DEFINITION. Machine/Flags.lean: the values written to VF (10_state.md R38) and the order of the writes (00_scope.md R13).
-/
namespace Sys2Proof.Machine

/-- A flag as a byte: exactly 0 or 1 (10_state.md R38). -/
def flagByte (c : Bool) : Byte := if c then 1 else 0

/-- Carry of `8XY4`: the unreduced sum exceeds 255 (43_alu.md R165). -/
def carry (x y : Byte) : Bool := decide (x.toNat + y.toNat > 255)

/-- No borrow of `x - y`: `x >= y` (43_alu.md R166, R168). -/
def noBorrow (x y : Byte) : Bool := decide (x.toNat ≥ y.toNat)

/-- The bit a right shift by one pushes out, bit 0 (43_alu.md R167). -/
def lowBit (value : Byte) : Bool := value.getLsbD 0

/-- The bit a left shift by one pushes out, bit 7 (43_alu.md R169). -/
def highBit (value : Byte) : Bool := value.getLsbD 7

/-- The flag of `FX1E`: the unreduced sum exceeds ADDI_THRESHOLD (46_index_memory.md R201). -/
def indexOverflow (threshold : Nat) (i : Word) (x : Byte) : Bool := decide (i.toNat + x.toNat > threshold)

/-- VF written as a flag (10_state.md R38). -/
def State.setFlag (c : Bool) (s : State) : State := s.setReg vF (flagByte c)

/-- The data result into `V[x]`, then the flag into VF: the flag wins where `x` is 15 (43_alu.md R170,
10_state.md R39). -/
def State.setResult (x : Reg) (data : Byte) (flag : Bool) (s : State) : State := (s.setReg x data).setFlag flag

end Sys2Proof.Machine
end

