-- ==== Sys2Proof/Machine/Operands.lean ====
section
/-!
DEFINITION. Machine/Operands.lean: how an instruction forms the values it works on.
-/
namespace Sys2Proof.Machine

/-- A 12-bit literal as a 16-bit value, the upper 4 bits 0 (30_encoding.md R102). -/
def literalWord (nnn : Addr) : Word := nnn.setWidth 16

/-- The target of `BNNN`: `NNN + V[X]` when Q_JUMP is set, else `NNN`; the sum of at most 0x10FE does not wrap
(40_flow.md R133). -/
def State.jumpTarget (s : State) (x : Reg) (nnn : Addr) : Word :=
  if s.quirks.jump then literalWord nnn + (s.reg x).setWidth 16 else literalWord nnn

/-- The value a shift works on: `V[Y]` when Q_SHIFT is 0, `V[X]` when it is 1 (43_alu.md R167, R169). -/
def State.shiftValue (s : State) (x y : Reg) : Byte := if s.quirks.shift then s.reg x else s.reg y

/-- The latched key equals `V[x]`: all 8 bits are compared, and no key equals no value (45_keypad_timers.md R190). -/
def State.keyMatches (s : State) (x : Reg) : Bool :=
  match s.key with
  | some k => k.setWidth 8 == s.reg x
  | none => false

/-- The data address base, `I` as a natural number (46_index_memory.md R205). -/
def State.base (s : State) : Nat := s.index.toNat

/-- `I` after a block store or load of `V[0..x]`: `I + x + 1` modulo 65536, or `I` when Q_MEM is set
(46_index_memory.md R203, R204). -/
def State.blockIndex (s : State) (x : Reg) : Word :=
  if s.quirks.mem then s.index else BitVec.ofNat 16 (s.index.toNat + x.toNat + 1)

/-- The glyph number FX29 uses: the low nibble of `V[x]`, or all of it when FONT_INDEX_MASK is false
(44_display.md R183). -/
def State.glyph (s : State) (x : Reg) : Nat :=
  if s.params.fontIndexMask then (s.reg x).toNat % 16 else (s.reg x).toNat

/-- The address of glyph `d`: `0x050 + 5 * d` (44_display.md R183). -/
def glyphAddress (d : Nat) : Word := BitVec.ofNat 16 (fontBase + glyphBytes * d)

/-- The decimal digits of a byte: hundreds, tens, units, one a byte (46_index_memory.md R202). -/
def digits (b : Byte) : List Byte :=
  [BitVec.ofNat 8 (b.toNat / 100), BitVec.ofNat 8 (b.toNat / 10 % 10), BitVec.ofNat 8 (b.toNat % 10)]

/-- The column of a sprite's origin, `V[x] mod 64` (44_display.md R181). -/
def State.originX (s : State) (x : Reg) : Nat := (s.reg x).toNat % fbWidth

/-- The row of a sprite's origin, `V[y] mod 32` (44_display.md R181). -/
def State.originY (s : State) (y : Reg) : Nat := (s.reg y).toNat % fbHeight

end Sys2Proof.Machine
end

