-- ==== Sys2Proof/Machine/Alu.lean ====
section
/-!
DEFINITION. Machine/Alu.lean: register-to-register arithmetic, logic and shifts (43_alu.md). The operands are those of
the state before anything is written; the data result is written first and VF second (R170).
-/
namespace Sys2Proof.Machine

/-- LD_REG, `8XY0`: no flag (43_alu.md R161). -/
def execLdReg (x y : Reg) (s : State) : Result := .next (s.setReg x (s.reg y))

/-- OR, `8XY1`: no flag (43_alu.md R162, R171). -/
def execOr (x y : Reg) (s : State) : Result := .next (s.setReg x (s.reg x ||| s.reg y))

/-- AND, `8XY2`: no flag (43_alu.md R163, R171). -/
def execAnd (x y : Reg) (s : State) : Result := .next (s.setReg x (s.reg x &&& s.reg y))

/-- XOR, `8XY3`: no flag (43_alu.md R164, R171). -/
def execXor (x y : Reg) (s : State) : Result := .next (s.setReg x (s.reg x ^^^ s.reg y))

/-- ADD_REG, `8XY4`: the sum modulo 256, VF the carry (43_alu.md R165). -/
def execAddReg (x y : Reg) (s : State) : Result :=
  .next (s.setResult x (s.reg x + s.reg y) (carry (s.reg x) (s.reg y)))

/-- SUB, `8XY5`: `x - y` modulo 256, VF no borrow (43_alu.md R166). -/
def execSub (x y : Reg) (s : State) : Result :=
  .next (s.setResult x (s.reg x - s.reg y) (noBorrow (s.reg x) (s.reg y)))

/-- SHR, `8XY6`: the value shifted right by one, VF its bit 0 (43_alu.md R167). -/
def execShr (x y : Reg) (s : State) : Result :=
  .next (s.setResult x (s.shiftValue x y >>> 1) (lowBit (s.shiftValue x y)))

/-- SUBN, `8XY7`: `y - x` modulo 256, VF no borrow (43_alu.md R168). -/
def execSubn (x y : Reg) (s : State) : Result :=
  .next (s.setResult x (s.reg y - s.reg x) (noBorrow (s.reg y) (s.reg x)))

/-- SHL, `8XYE`: the value shifted left by one, VF its bit 7 (43_alu.md R169). -/
def execShl (x y : Reg) (s : State) : Result :=
  .next (s.setResult x (s.shiftValue x y <<< 1) (highBit (s.shiftValue x y)))

end Sys2Proof.Machine
end

