-- ==== Sys2Proof/Machine/Const.lean ====
section
/-!
DEFINITION. Machine/Const.lean: load literal, add literal, random (42_const.md).
-/
namespace Sys2Proof.Machine

/-- LD_IMM, `6XNN` (42_const.md R150). -/
def execLdImm (x : Reg) (nn : Byte) (s : State) : Result := .next (s.setReg x nn)

/-- ADD_IMM, `7XNN`: modulo 256, no flag (42_const.md R151). -/
def execAddImm (x : Reg) (nn : Byte) (s : State) : Result := .next (s.setReg x (s.reg x + nn))

/-- RND, `CXNN`: a byte drawn from the environment under the mask (42_const.md R152). The byte is a free value (log 7). -/
def execRnd (x : Reg) (nn : Byte) (s : State) : Result :=
  .next ((s.setReg x (Config.draw s.draws &&& nn)).drawn)

end Sys2Proof.Machine
end

