-- ==== Sys2Proof/Machine/Display.lean ====
section
/-!
DEFINITION. Machine/Display.lean: the framebuffer instructions and the font address (44_display.md).
-/
namespace Sys2Proof.Machine

/-- CLS, `00E0`: every cell false (44_display.md R180). -/
def execCls (s : State) : Result := .next (s.setFb Framebuffer.clear)

/-- DRW, `DXYN`: the coordinates and the whole range of rows are read and checked before VF or the framebuffer is
touched; a row address above 4095 raises MemOutOfRange and changes nothing else; VF is the collision
(44_display.md R182). -/
def execDrw (x y : Reg) (n : Nibble) (s : State) : Result :=
  match s.load s.base n.toNat with
  | some rows =>
    let drawn := drawRows (s.originX x) (s.originY y) rows { fb := s.fb, hit := false }
    .next ((s.setFb drawn.fb).setFlag drawn.hit)
  | none => .next (s.raiseIn .memOutOfRange (.drw x y n))

/-- LD_F, `FX29`: `I` to the glyph's address, no memory access (44_display.md R183). -/
def execLdF (x : Reg) (s : State) : Result := .next (s.setIndex (glyphAddress (s.glyph x)))

end Sys2Proof.Machine
end

