-- ==== Sys2Proof/Machine/Flow.lean ====
section
/-!
DEFINITION. Machine/Flow.lean: jumps, calls and returns (40_flow.md). `pc` already holds the instruction's address
plus 2.
-/
namespace Sys2Proof.Machine

/-- RET, `00EE`: pop into `pc`; an empty stack raises StackUnderflow and changes nothing else (40_flow.md R130). -/
def execRet (s : State) : Result :=
  match s.pop with
  | some (t, s1) => .next (s1.setPc t)
  | none => .next (s.raiseIn .stackUnderflow .ret)

/-- JP, `1NNN` (40_flow.md R131). -/
def execJp (nnn : Addr) (s : State) : Result := .next (s.setPc (literalWord nnn))

/-- CALL, `2NNN`: push `pc`, the address after the call; a full stack raises StackOverflow and changes nothing else
(40_flow.md R132). -/
def execCall (nnn : Addr) (s : State) : Result :=
  match s.push s.pc with
  | some s1 => .next (s1.setPc (literalWord nnn))
  | none => .next (s.raiseIn .stackOverflow (.call nnn))

/-- JP_OFF, `BNNN` (40_flow.md R133). -/
def execJpOff (x : Reg) (nnn : Addr) (s : State) : Result := .next (s.setPc (s.jumpTarget x nnn))

end Sys2Proof.Machine
end

