-- ==== Sys2Proof/Machine/IndexMemory.lean ====
section
/-!
DEFINITION. Machine/IndexMemory.lean: the index register and memory instructions (46_index_memory.md).
-/
namespace Sys2Proof.Machine

/-- LD_I, `ANNN` (46_index_memory.md R200). -/
def execLdI (nnn : Addr) (s : State) : Result := .next (s.setIndex (literalWord nnn))

/-- ADD_I, `FX1E`: the sum modulo 65536, then VF from the unreduced sum (46_index_memory.md R201). -/
def execAddI (x : Reg) (s : State) : Result :=
  .next ((s.setIndex (s.index + (s.reg x).setWidth 16)).setFlag
    (indexOverflow s.params.addiThreshold s.index (s.reg x)))

/-- LD_B, `FX33`: hundreds, tens and units at `I`, `I + 1`, `I + 2`; an address above 4095 raises MemOutOfRange and
nothing is stored (46_index_memory.md R202). -/
def execLdB (x : Reg) (s : State) : Result :=
  match s.store s.base (digits (s.reg x)) with
  | some s1 => .next s1
  | none => .next (s.raiseIn .memOutOfRange (.ldB x))

/-- ST_REGS, `FX55`: `V[0..x]` at `I` on, then `I`; an address above 4095 raises MemOutOfRange and nothing is stored
(46_index_memory.md R203). -/
def execStRegs (x : Reg) (s : State) : Result :=
  match s.store s.base (s.lowRegs x) with
  | some s1 => .next (s1.setIndex (s.blockIndex x))
  | none => .next (s.raiseIn .memOutOfRange (.stRegs x))

/-- LD_REGS, `FX65`: `V[0..x]` from `I` on, then `I`; an address above 4095 raises MemOutOfRange and no register changes
(46_index_memory.md R204). -/
def execLdRegs (x : Reg) (s : State) : Result :=
  match s.load s.base (x.toNat + 1) with
  | some bs => .next ((s.setLowRegs bs).setIndex (s.blockIndex x))
  | none => .next (s.raiseIn .memOutOfRange (.ldRegs x))

end Sys2Proof.Machine
end

