-- ==== Sys2Proof/Machine/KeyTimer.lean ====
section
/-!
DEFINITION. Machine/KeyTimer.lean: the keypad and timer instructions (45_keypad_timers.md).
-/
namespace Sys2Proof.Machine

/-- SKP, `EX9E` (45_keypad_timers.md R190). -/
def execSkp (x : Reg) (s : State) : Result := .next (s.skipIf (s.keyMatches x))

/-- SKNP, `EXA1`: the exact complement of SKP (45_keypad_timers.md R191). -/
def execSknp (x : Reg) (s : State) : Result := .next (s.skipIf (!s.keyMatches x))

/-- LD_VX_DT, `FX07` (45_keypad_timers.md R193). -/
def execLdVxDt (x : Reg) (s : State) : Result := .next (s.setReg x s.dt)

/-- LD_VX_K, `FX0A`: without a key `pc` goes back by 2, to this same instruction; with one it is stored and the latch
stays (45_keypad_timers.md R192). -/
def execLdVxK (x : Reg) (s : State) : Result :=
  match s.key with
  | none => .next (s.setPc (s.pc - 2))
  | some k => .next (s.setReg x (k.setWidth 8))

/-- LD_DT_VX, `FX15` (45_keypad_timers.md R194). -/
def execLdDtVx (x : Reg) (s : State) : Result := .next (s.setDt (s.reg x))

/-- LD_ST_VX, `FX18` (45_keypad_timers.md R195). -/
def execLdStVx (x : Reg) (s : State) : Result := .next (s.setSt (s.reg x))

end Sys2Proof.Machine
end

