-- ==== Sys2Proof/Machine/Skip.lean ====
section
/-!
DEFINITION. Machine/Skip.lean: the conditional skips on registers (41_skip.md).
-/
namespace Sys2Proof.Machine

/-- SE_IMM, `3XNN` (41_skip.md R140). -/
def execSeImm (x : Reg) (nn : Byte) (s : State) : Result := .next (s.skipIf (s.reg x == nn))

/-- SNE_IMM, `4XNN` (41_skip.md R141). -/
def execSneImm (x : Reg) (nn : Byte) (s : State) : Result := .next (s.skipIf (s.reg x != nn))

/-- SE_REG, `5XY0` (41_skip.md R142). -/
def execSeReg (x y : Reg) (s : State) : Result := .next (s.skipIf (s.reg x == s.reg y))

/-- SNE_REG, `9XY0` (41_skip.md R143). -/
def execSneReg (x y : Reg) (s : State) : Result := .next (s.skipIf (s.reg x != s.reg y))

end Sys2Proof.Machine
end

