-- ==== Sys2Proof/Machine/Cycle.lean ====
section
/-!
DEFINITION. Machine/Cycle.lean: the instruction cycle and the choice of the agent that moves.
-/
namespace Sys2Proof.Machine

/-- No cycle and no load since the reset any more: `load-program` is not enabled (60_exceptions.md R247). -/
def State.started (s : State) : State := { s with loadable := false }

/-- Fetch, Decode, Execute on a core that is not halted (00_scope.md R7; 20_memory.md R80; 30_encoding.md R105;
60_exceptions.md R222: a fault of an earlier stage comes first). -/
def runInstruction (s : State) : Result :=
  match s.fetch with
  | none => .next (s.raise .fetchOutOfRange s.pc 0)
  | some (op, s1) =>
    match decodeWord op with
    | .ok i => exec i s1
    | .error _ => .next (s1.unrecognized op)

/-- One instruction cycle: enabled only while no fault is recorded and no load has failed (10_state.md R58,
60_exceptions.md R242, R247). -/
def cycle (s : State) : Result :=
  match s.fault with
  | some f => .refused (.halted f)
  | none => if s.loadFailed then .fault .romLoadError else runInstruction s.started

/-- One atomic step of one agent (60_exceptions.md R247). -/
def runMove (m : AgentMove) (s : State) : Result :=
  match m with
  | .cpu => cycle s
  | .tick => .next s.tick
  | .setKey k => .next (s.setKey k)
  | .loadProgram image => loadProgram image s
  | .getFramebuffer => .next s
  | .reset q p => .next (s.resetBy q p)

/-- The agent that moves next: the first one scheduled, or the CPU when none is (00_scope.md R6, log 3). -/
def State.nextMove (s : State) : AgentMove :=
  match s.schedule with
  | [] => .cpu
  | m :: _ => m

/-- The state without the move that is being taken. -/
def State.moveTaken (s : State) : State := { s with schedule := s.schedule.tail }

/-- An instruction word put where the next cycle fetches: at `pc`, or at 0x200 where `pc` is out of the fetchable range;
the CPU moves next and no fault or failed load bars it (log 12). -/
def State.placeWord (op : Word) (s : State) : State :=
  let base := if memSize - 1 ≤ s.pc.toNat then progBase else s.pc.toNat
  { s with
    pc := BitVec.ofNat 16 base
    mem := Memory.writeAll s.params.fontRom s.mem base (bytesOfWord op)
    fault := none
    loadFailed := false
    schedule := if s.schedule.isEmpty then [] else .cpu :: s.schedule }

end Sys2Proof.Machine
end

