-- ==== Sys2Proof/Machine/Step.lean ====
section
/-!
DEFINITION. Machine/Step.lean: the step, one atomic step of one agent (00_scope.md R6), and the host's way to put an
instruction where the next step fetches it.
-/
namespace Sys2Proof.Machine

/-- One atomic step: the move of the agent whose turn it is. -/
def step (s : State) : Host.Outcome State Fault Refusal := runMove s.nextMove s.moveTaken

/-- `s` with the instruction whose table bits are `w` stored where `step` fetches its next instruction. -/
def State.withFetchWord (s : State) (nbits w : Nat) : State := s.placeWord (tableWord nbits w)

end Sys2Proof.Machine
end

