-- ==== Sys2Proof/Safety.lean ====
section
/-!
DEFINITION. Safety.lean: what counts as a good state and a good run, in the terms the claims use.
-/
namespace Sys2Proof.Machine

/-- A fault is recorded: no cycle is enabled until a reset (10_state.md R58, 60_exceptions.md R224). -/
def State.isHalted (s : State) : Bool := s.fault.isSome

/-- The largest value `pc` can hold between cycles: `0xFFF + 0xFF`, from a jump with offset (10_state.md R37). -/
def pcLimit : Nat := 0x10FE

/-- Where `pc` stands against the fault record: at the address that could not be fetched, or two past the instruction that
faulted (60_exceptions.md R220); with no fault the record is clear (10_state.md R58). -/
def State.faultRecordOk (s : State) : Bool :=
  match s.fault with
  | none => s.faultAddr == 0 && s.faultOpcode == 0
  | some .fetchOutOfRange => s.pc == s.faultAddr && s.faultOpcode == 0 && decide (memSize - 1 ≤ s.faultAddr.toNat)
  | some _ => s.pc == s.faultAddr + 2

/-- The states every run stays in. -/
structure State.Inv (s : State) : Prop where
  /-- Memory keeps its canonical form: no address above 4095, no duplicate (10_state.md R49). -/
  mem : Memory.wf s.params.fontRom s.mem = true
  /-- The stack holds at most STACK_DEPTH entries (10_state.md R46). -/
  depth : s.stack.length ≤ s.params.stackDepth
  /-- Every return address is at most 4096 (10_state.md R37). -/
  returns : ∀ t ∈ s.stack, t.toNat ≤ memSize
  /-- `pc` never passes 4350 and never wraps (10_state.md R37). -/
  pc : s.pc.toNat ≤ pcLimit
  /-- The fault record agrees with `pc`. -/
  record : s.faultRecordOk = true
  /-- While a load is still enabled, and after one has failed, no cycle has run, so no fault is recorded
  (60_exceptions.md R242, R247; log 14). -/
  unstarted : s.loadable = true ∨ s.loadFailed = true → s.fault = none
  /-- A load that has failed was the only one before the next reset (60_exceptions.md R242, log 14). -/
  oneLoad : s.loadFailed = true → s.loadable = false

/-- A run of any number of steps from `s` to `t`. -/
inductive Runs : State → State → Prop where
  /-- No step. -/
  | none (s : State) : Runs s s
  /-- A run and one more step. -/
  | step {s t u : State} (before : Runs s t) (last : step t = .next u) : Runs s u

end Sys2Proof.Machine
end

