-- ==== Sys2Proof/Certificates/Slice0/Obligations.lean ====
section
/-!
DEFINITION. Certificates/Slice0/Obligations.lean: the statements for the provers.
`Claims` holds the words they use: the frames, and readings of the spec's tables that do not go through the meanings.
Where a docstring says "the spec's own decision D<n>", the clause rests on 92_eei_decisions.md and not on the source.
-/
namespace Sys2Proof.Claims

open Sys2Proof.Machine

/-! ### Frames -/

/-- Every byte of memory reads as before. -/
def SameMemory (s t : State) : Prop := ∀ a, t.byte a = s.byte a

/-- Nothing changes but `pc`. -/
def OnlyPc (s t : State) : Prop := t = { s with pc := t.pc } ∧ SameMemory s t

/-- Nothing changes but general registers. -/
def OnlyRegs (s t : State) : Prop := t = { s with v := t.v } ∧ SameMemory s t

/-- Nothing changes but `I`. -/
def OnlyIndex (s t : State) : Prop := t = { s with index := t.index } ∧ SameMemory s t

/-- Nothing changes but `I` and general registers. -/
def OnlyIndexRegs (s t : State) : Prop := t = { s with index := t.index, v := t.v } ∧ SameMemory s t

/-- Nothing changes but the framebuffer and general registers. -/
def OnlyDisplayRegs (s t : State) : Prop := t = { s with fb := t.fb, v := t.v } ∧ SameMemory s t

/-- Nothing changes but memory and `I`. -/
def OnlyMemoryIndex (s t : State) : Prop := t = { s with mem := t.mem, index := t.index }

/-- Every register but `x` keeps its value. -/
def OtherRegs (x : Reg) (s t : State) : Prop := ∀ y, y ≠ x → t.reg y = s.reg y

/-- Every register but `x` and VF keeps its value. -/
def OtherRegsButFlag (x : Reg) (s t : State) : Prop := ∀ y, y ≠ x → y ≠ vF → t.reg y = s.reg y

/-- The fault record of an instruction that has just faulted: the kind, its address (`pc` holds that plus 2), its word, and
nothing else changed (60_exceptions.md R220, the spec's own decision D14). -/
def Faulted (f : FaultKind) (op : Word) (s t : State) : Prop :=
  t = { s with fault := some f, faultAddr := s.pc - 2, faultOpcode := op } ∧ SameMemory s t

/-! ### Readings of the spec's tables -/

/-- The bit of a sprite that lands on the cell at column `col` and row `row`, and no bit where the sprite does not reach
(44_display.md R181): bit `7 - c` of the byte at `I + r`, with `c` and `r` counted from the origin. -/
def spriteBit (s : State) (x y : Reg) (n : Nibble) (col row : Nat) : Bool :=
  let x0 := (s.reg x).toNat % 64
  let y0 := (s.reg y).toNat % 32
  decide (x0 ≤ col ∧ col < x0 + 8 ∧ y0 ≤ row ∧ row < y0 + n.toNat) &&
    (s.byte (s.index.toNat + (row - y0))).getLsbD (7 - (col - x0))

/-- A sprite bit of 1 lands on a set cell of the grid (44_display.md R182). -/
def Collides (s : State) (x y : Reg) (n : Nibble) : Prop :=
  ∃ col row, col < 64 ∧ row < 32 ∧ spriteBit s x y n col row = true ∧ s.pixel col row = true

/-- The byte at an address after ST_REGS has stored its block inside memory (46_index_memory.md R203). -/
def blockByte (s : State) (x : Reg) (a : Nat) : Byte :=
  if s.index.toNat ≤ a ∧ a ≤ s.index.toNat + x.toNat then s.reg (BitVec.ofNat 4 (a - s.index.toNat)) else s.byte a

/-- The byte at an address after LD_B has stored its digits inside memory (46_index_memory.md R202). -/
def digitByte (s : State) (x : Reg) (a : Nat) : Byte :=
  if a = s.index.toNat then BitVec.ofNat 8 ((s.reg x).toNat / 100)
  else if a = s.index.toNat + 1 then BitVec.ofNat 8 ((s.reg x).toNat / 10 % 10)
  else if a = s.index.toNat + 2 then BitVec.ofNat 8 ((s.reg x).toNat % 10)
  else s.byte a

/-- The instructions that write VF as a flag (the table of 10_state.md R38). -/
def writesFlag : Instr → Bool
  | .addReg _ _ => true
  | .sub _ _ => true
  | .subn _ _ => true
  | .shr _ _ => true
  | .shl _ _ => true
  | .drw _ _ _ => true
  | .addI _ => true
  | _ => false

/-- The instruction writes register `r` as data (10_state.md R32, "Written as"). -/
def writesData : Instr → Reg → Bool
  | .ldImm x _, r => r == x
  | .addImm x _, r => r == x
  | .ldReg x _, r => r == x
  | .or x _, r => r == x
  | .and x _, r => r == x
  | .xor x _, r => r == x
  | .addReg x _, r => r == x
  | .sub x _, r => r == x
  | .shr x _, r => r == x
  | .subn x _, r => r == x
  | .shl x _, r => r == x
  | .rnd x _, r => r == x
  | .ldVxDt x, r => r == x
  | .ldVxK x, r => r == x
  | .ldRegs x, r => decide (r.toNat ≤ x.toNat)
  | _, _ => false

/-- The fault an instruction raises in a state, or none (60_exceptions.md R221): each names one condition. -/
def faultOf : Instr → State → Option FaultKind
  | .ret, s => if s.stack.length = 0 then some .stackUnderflow else none
  | .call _, s => if s.params.stackDepth ≤ s.stack.length then some .stackOverflow else none
  | .drw _ _ n, s => if 0 < n.toNat ∧ 4095 < s.index.toNat + n.toNat - 1 then some .memOutOfRange else none
  | .ldB _, s => if 4095 < s.index.toNat + 2 then some .memOutOfRange else none
  | .stRegs x, s => if 4095 < s.index.toNat + x.toNat then some .memOutOfRange else none
  | .ldRegs x, s => if 4095 < s.index.toNat + x.toNat then some .memOutOfRange else none
  | _, _ => none

/-- Where an instruction that does not fault leaves `pc`, from the `pc` it is executed with, its address plus 2
(10_state.md R35). -/
def pcAfter : Instr → State → Nat
  | .jp nnn, _ => nnn.toNat
  | .call nnn, _ => nnn.toNat
  | .ret, s => (s.stack.headD 0).toNat
  | .jpOff x nnn, s => nnn.toNat + (if s.quirks.jump then (s.reg x).toNat else 0)
  | .seImm x nn, s => if s.reg x = nn then s.pc.toNat + 2 else s.pc.toNat
  | .sneImm x nn, s => if s.reg x = nn then s.pc.toNat else s.pc.toNat + 2
  | .seReg x y, s => if s.reg x = s.reg y then s.pc.toNat + 2 else s.pc.toNat
  | .sneReg x y, s => if s.reg x = s.reg y then s.pc.toNat else s.pc.toNat + 2
  | .skp x, s => if (s.key.map BitVec.toNat) = some (s.reg x).toNat then s.pc.toNat + 2 else s.pc.toNat
  | .sknp x, s => if (s.key.map BitVec.toNat) = some (s.reg x).toNat then s.pc.toNat else s.pc.toNat + 2
  | .ldVxK _, s => if s.key = none then s.pc.toNat - 2 else s.pc.toNat
  | _, s => s.pc.toNat

end Sys2Proof.Claims

open Sys2Proof Sys2Proof.Machine Sys2Proof.Claims

/-! ### Encoding -/

/-- Decode of encode is the instruction, for every well-formed instruction with every operand value, whatever bytes
follow (30_encoding.md section 3). -/
def Obligations.DecodeEncodeRoundTrip : Prop :=
  ∀ (i : Instr) (rest : List Byte), i.wellFormed = true → decode (encode i ++ rest) = .ok (i, rest)

/-- Encode of decode is the word: every bit of a defined word is fixed by its row or is in a field of the instruction, and
what the decoder answers is well-formed (30_encoding.md section 4). -/
def Obligations.EncodeDecodeRoundTrip : Prop :=
  ∀ (w : Word) (i : Instr), decodeWord w = .ok i → i.wellFormed = true ∧ encodeWord i = w

/-- The decoder selects exactly the row whose mask and match the word meets; there are 34 rows and no word meets two
(30_encoding.md section 3, the printed map; that the rows of 5XY0 and 9XY0 fix the low nibble is the spec's own decision
D13). -/
def Obligations.DecodeSelectsTheOpcodeRow : Prop :=
  opcodeRows.length = 34 ∧
  (∀ (w : Word) (r r' : OpcodeRow), r ∈ opcodeRows → r' ∈ opcodeRows → r.covers w = true → r'.covers w = true →
    r = r') ∧
  (∀ (w : Word) (r : OpcodeRow), r ∈ opcodeRows → r.covers w = true →
    ∃ i, decodeWord w = .ok i ∧ i.mnemonic = r.mnemonic) ∧
  (∀ (w : Word) (i : Instr), decodeWord w = .ok i →
    ∃ r, r ∈ opcodeRows ∧ r.covers w = true ∧ r.mnemonic = i.mnemonic)

/-- The unrecognized words are exactly those of the table of 30_encoding.md section 4, each turned down under its group's
name. That groups 5 and 9 test the low nibble is the spec's own decision D13. -/
def Obligations.UnrecognizedWordsAreTheTablesOwn : Prop :=
  ∀ (w : Word) (e : Reject), decodeWord w = .error e ↔
    (e = .group0 ∧ w.toNat / 4096 = 0 ∧ w ≠ 0x00E0#16 ∧ w ≠ 0x00EE#16) ∨
    (e = .group5 ∧ w.toNat / 4096 = 5 ∧ w.toNat % 16 ≠ 0) ∨
    (e = .group8 ∧ w.toNat / 4096 = 8 ∧ w.toNat % 16 ∈ [8, 9, 0xA, 0xB, 0xC, 0xD, 0xF]) ∨
    (e = .group9 ∧ w.toNat / 4096 = 9 ∧ w.toNat % 16 ≠ 0) ∨
    (e = .groupE ∧ w.toNat / 4096 = 0xE ∧ w.toNat % 256 ∉ [0x9E, 0xA1]) ∨
    (e = .groupF ∧ w.toNat / 4096 = 0xF ∧
      w.toNat % 256 ∉ [0x07, 0x0A, 0x15, 0x18, 0x1E, 0x29, 0x33, 0x55, 0x65])

/-- A few words, one a family: 0x600A and 0xD015 are the examples of 42_const.md and 44_display.md, the others stand in the
decode table of 95_test_vectors.md section 2.1. That 0x5121 is unrecognized is the spec's own decision D13 (log 16). -/
def Obligations.SampleWordsDecode : Prop :=
  decodeWord 0x00E0 = .ok .cls ∧ decodeWord 0x00EE = .ok .ret ∧ decodeWord 0x10E0 = .ok (.jp 0x0E0) ∧
  decodeWord 0x9AB0 = .ok (.sneReg 10 11) ∧ decodeWord 0x600A = .ok (.ldImm 0 0x0A) ∧
  decodeWord 0x8127 = .ok (.subn 1 2) ∧ decodeWord 0xD015 = .ok (.drw 0 1 5) ∧
  decodeWord 0xE1A1 = .ok (.sknp 1) ∧ decodeWord 0xFF65 = .ok (.ldRegs 15) ∧
  decodeWord 0xBFFF = .ok (.jpOff 15 0xFFF) ∧ decodeWord 0x0000 = .error .group0 ∧
  decodeWord 0x5121 = .error .group5 ∧ decodeWord 0xF175 = .error .groupF

/-! ### The cycle and the agents -/

/-- When the CPU moves, no fault is recorded, no load has failed and the two bytes at `pc` decode to `i`, the step is exec of
`i` in the state with `pc` advanced by 2 (00_scope.md section 4). Around exec the model takes the move from its schedule
(log 3), and `load-program` is no longer enabled (the spec's own decision D19, log 14). -/
def Obligations.StepRunsDecodedInstruction : Prop :=
  ∀ (s : State) (i : Instr) (rest : List Byte), s.nextMove = .cpu → s.fault = none → s.loadFailed = false → s.pc.toNat ≤ 4094 →
    decode (s.byte s.pc.toNat :: s.byte (s.pc.toNat + 1) :: rest) = .ok (i, rest) →
    step s = exec i { s with pc := s.pc + 2, schedule := s.schedule.tail, loadable := false }

/-- A cycle at a `pc` of 4095 or more raises FetchOutOfRange: the record holds `pc` and no word, and `pc` and everything
else of the core stay (20_memory.md section 4; the record is the spec's own decision D14, a next state by log 1). As in
every cycle the model takes the move from its schedule (log 3), and `load-program` is no longer enabled (the spec's own
decision D19, log 14). -/
def Obligations.FetchOutOfRangeFaults : Prop :=
  ∀ s : State, s.nextMove = .cpu → s.fault = none → s.loadFailed = false → 4095 ≤ s.pc.toNat →
    step s = .next { s with fault := some .fetchOutOfRange, faultAddr := s.pc, faultOpcode := 0,
                            schedule := s.schedule.tail, loadable := false }

/-- A cycle that fetches an unrecognized word `op` leaves `pc` two further on; under the policy Fault it records
IllegalInstruction with the word's address and bits, under the policy Skip it changes nothing more of the core
(30_encoding.md section 4, the spec's own decision D4; the record is its own decision D14, a next state by log 1). As in
every cycle the model takes the move from its schedule (log 3), and `load-program` is no longer enabled (the spec's own
decision D19, log 14). -/
def Obligations.UnrecognizedWordFollowsThePolicy : Prop :=
  ∀ (s : State) (e : Reject), s.nextMove = .cpu → s.fault = none → s.loadFailed = false → s.pc.toNat ≤ 4094 →
    decode [s.byte s.pc.toNat, s.byte (s.pc.toNat + 1)] = .error e →
    ∃ t, step s = .next t ∧
      (s.params.illegalPolicy = .fault →
        t = { s with pc := s.pc + 2, fault := some .illegalInstruction, faultAddr := s.pc,
                     faultOpcode := s.byte s.pc.toNat ++ s.byte (s.pc.toNat + 1),
                     schedule := s.schedule.tail, loadable := false }) ∧
      (s.params.illegalPolicy = .skip →
        t = { s with pc := s.pc + 2, schedule := s.schedule.tail, loadable := false })

/-- While a fault is recorded the CPU has no step (10_state.md section 4, the spec's own decision D14); the model refuses the
move by name (log 2). -/
def Obligations.HaltedCoreRunsNoCycle : Prop :=
  ∀ (s : State) (f : FaultKind), s.nextMove = .cpu → s.fault = some f → step s = .refused (.halted f)

/-- A recorded fault outlasts every step but a reset, and with it the registers, `pc`, `I`, the stack and the framebuffer
stay; memory stays unless the step is a program load (60_exceptions.md section 1, the spec's own decision D14). -/
def Obligations.OnlyResetEndsAHalt : Prop :=
  ∀ (s t : State), s.fault ≠ none → (∀ q p, s.nextMove ≠ .reset q p) → step s = .next t →
    t.fault = s.fault ∧ t.faultAddr = s.faultAddr ∧ t.faultOpcode = s.faultOpcode ∧ t.v = s.v ∧ t.pc = s.pc ∧
    t.index = s.index ∧ t.stack = s.stack ∧ t.fb = s.fb ∧
    ((∀ image, s.nextMove ≠ .loadProgram image) → SameMemory s t)

/-- The timer tick: each timer above 0 goes down by one, a timer at 0 stays, nothing else of the core changes, in every
state, a halted one too (60_exceptions.md section 4). That the tick is the scheduled move, and that the move is taken off the
schedule, is the model's choice (log 3). -/
def Obligations.TickLowersBothTimers : Prop :=
  ∀ s : State, s.nextMove = .tick → ∃ t, step s = .next t ∧
    t.dt.toNat = (if 0 < s.dt.toNat then s.dt.toNat - 1 else 0) ∧
    t.st.toNat = (if 0 < s.st.toNat then s.st.toNat - 1 else 0) ∧
    t = { s with dt := t.dt, st := t.st, schedule := s.schedule.tail } ∧ SameMemory s t

/-- `set-key` overwrites the latch, a press or a release, in every state, and touches nothing else; `get-framebuffer`
reads the whole grid and changes nothing (60_exceptions.md section 6). The move is taken from the model's schedule
(log 3). -/
def Obligations.KeyAndDisplayHostSteps : Prop :=
  (∀ (s : State) (k : Option Key), s.nextMove = .setKey k →
    step s = .next { s with key := k, schedule := s.schedule.tail }) ∧
  (∀ s : State, s.nextMove = .getFramebuffer → step s = .next { s with schedule := s.schedule.tail }) ∧
  (∀ (s : State) (col row : Nat), Framebuffer.cell s.getFramebuffer col row = s.pixel col row)

/-- `load-program`, when enabled, copies an image of at most 3584 bytes to 0x200 on and touches nothing else of the core; a
larger one fails and leaves the core's state unchanged; at any other time there is no such move (60_exceptions.md section
6). When it is enabled is the spec's own decision D19; the model's fields `loadable` and `loadFailed`, the refusal, and that
a failed load was the one load are log 14; the move is taken from the model's schedule (log 3). Memory is in its canonical
form (log 10), as the invariant says. -/
def Obligations.LoadProgramCopiesTheImage : Prop :=
  ∀ (s : State) (image : List Byte), s.nextMove = .loadProgram image →
    (s.loadable = true → image.length ≤ 3584 → Memory.wf s.params.fontRom s.mem = true →
      ∃ t, step s = .next t ∧
        (∀ a, t.byte a = if 0x200 ≤ a ∧ a < 0x200 + image.length then image.getD (a - 0x200) 0 else s.byte a) ∧
        t = { s with mem := t.mem, loadable := false, schedule := s.schedule.tail }) ∧
    (s.loadable = true → 3584 < image.length → ∃ t, step s = .next t ∧
      t = { s with loadable := false, loadFailed := true, schedule := s.schedule.tail } ∧ SameMemory s t) ∧
    (s.loadable = false → step s = .refused .loadNotEnabled)

/-- After a load has failed no cycle runs: the CPU's move stops as the ROM-load error, and a further load is refused. Every
move but these two is still taken, and no step but a reset lifts the bar or changes a register, `pc`, `I`, the stack,
memory, the framebuffer or the fault record (60_exceptions.md section 6). One load a reset is the spec's own decision D19;
the fields that note it and the name of the stop are log 14. -/
def Obligations.FailedLoadBarsEveryCycle : Prop :=
  (∀ s : State, s.nextMove = .cpu → s.fault = none → s.loadFailed = true → step s = .fault .romLoadError) ∧
  (∀ (s : State) (image : List Byte), s.loadFailed = true → s.loadable = false → s.nextMove = .loadProgram image →
    step s = .refused .loadNotEnabled) ∧
  (∀ s : State, s.loadFailed = true → s.nextMove ≠ .cpu → (∀ image, s.nextMove ≠ .loadProgram image) →
    ∃ t, step s = .next t) ∧
  (∀ s t : State, s.loadFailed = true → s.loadable = false → s.fault = none → (∀ q p, s.nextMove ≠ .reset q p) →
    step s = .next t → t.loadFailed = true ∧ t.loadable = false ∧ t.v = s.v ∧ t.pc = s.pc ∧ t.index = s.index ∧
      t.stack = s.stack ∧ SameMemory s t ∧ t.fb = s.fb ∧ t.fault = none ∧ t.faultAddr = s.faultAddr ∧
      t.faultOpcode = s.faultOpcode)

/-- Reset is taken in every state, a halted one too, and leaves the table of 10_state.md section 9 with the construction
arguments given. That it may come at any time is the spec's own decision D19 (log 16), the 0 of `I`, DT and ST and the empty
key latch are its own decisions D5 and D6 (log 8), and the cleared fault record is its own decision D14. That a load is then
enabled and none has failed is log 14; that the moves to come and the draw count go on is log 15. -/
def Obligations.ResetLeavesTheResetTable : Prop :=
  ∀ (s : State) (q : Quirks) (p : Params), s.nextMove = .reset q p → ∃ t, step s = .next t ∧
    (∀ x, t.reg x = 0) ∧ t.pc = 0x200 ∧ t.index = 0 ∧ t.stack = [] ∧ t.dt = 0 ∧ t.st = 0 ∧ t.key = none ∧
    (∀ a, t.byte a = if 0x050 ≤ a ∧ a ≤ 0x09F then p.fontRom.toList.getD (a - 0x050) 0 else 0) ∧
    (∀ col row, t.pixel col row = false) ∧ t.quirks = q ∧ t.params = p ∧
    t.fault = none ∧ t.faultAddr = 0 ∧ t.faultOpcode = 0 ∧ t.loadable = true ∧
    t.loadFailed = false ∧
    t.schedule = s.schedule.tail ∧ t.draws = s.draws

/-- After construction every general register is 0, the stack is empty and every cell of the framebuffer is false, for
every setting of the construction arguments (10_state.md R31, R48, R51). -/
def Obligations.ConstructionClearsRegistersStackAndDisplay : Prop :=
  ∀ (q : Quirks) (p : Params),
    (∀ x, (State.resetWith q p).reg x = 0) ∧ (State.resetWith q p).stack.length = 0 ∧
    (∀ col row, col < 64 → row < 32 → (State.resetWith q p).pixel col row = false)

/-! ### Jumps, calls, returns (40_flow.md) -/

/-- JP: its encoding, and `pc` becomes NNN with nothing else changed, whatever NNN; from 0xFFF there is no next fetch
(40_flow.md R131). -/
def Obligations.JpGoesToTheLiteral : Prop :=
  (∀ w : Word, w.toNat / 4096 = 1 → ∃ nnn : Addr, nnn.toNat = w.toNat % 4096 ∧ decodeWord w = .ok (.jp nnn)) ∧
  (∀ (nnn : Addr) (s : State), ∃ t, exec (.jp nnn) s = .next t ∧ t.pc.toNat = nnn.toNat ∧ OnlyPc s t ∧
    (nnn = 0xFFF → t.fetch = none))

/-- JP_OFF: `pc` becomes NNN plus `V[X]` when Q_JUMP is 1, and NNN alone when it is 0, with nothing else changed; the
decoder's X is the high nibble of NNN (40_flow.md; that nothing is added when the toggle is off is the spec's own decision
D10). -/
def Obligations.JpOffAddsTheRegisterUnderItsToggle : Prop :=
  (∀ w : Word, w.toNat / 4096 = 0xB → ∃ (x : Reg) (nnn : Addr), x.toNat = w.toNat / 256 % 16 ∧
    nnn.toNat = w.toNat % 4096 ∧ decodeWord w = .ok (.jpOff x nnn)) ∧
  (∀ (x : Reg) (nnn : Addr) (s : State), ∃ t, exec (.jpOff x nnn) s = .next t ∧
    t.pc.toNat = (if s.quirks.jump then nnn.toNat + (s.reg x).toNat else nnn.toNat) ∧ OnlyPc s t)

/-- CALL with room on the stack pushes the address after the call and goes to NNN; RET with an entry pops it into `pc`;
nothing else changes (40_flow.md; that the stack has STACK_DEPTH entries is the spec's own decision D2, and that it is the
list of its live entries log 11). -/
def Obligations.CallPushesAndRetPops : Prop :=
  (∀ (nnn : Addr) (s : State), s.stack.length < s.params.stackDepth → ∃ t, exec (.call nnn) s = .next t ∧
    t.stack = s.pc :: s.stack ∧ t.pc.toNat = nnn.toNat ∧
    t = { s with stack := t.stack, pc := t.pc } ∧ SameMemory s t) ∧
  (∀ (s : State) (a : Word) (rest : List Word), s.stack = a :: rest → ∃ t, exec .ret s = .next t ∧
    t.stack = rest ∧ t.pc = a ∧ t = { s with stack := t.stack, pc := t.pc } ∧ SameMemory s t)

/-- RET on an empty stack records StackUnderflow, CALL on a full one StackOverflow, and nothing but the record changes
(40_flow.md; the record is the spec's own decision D14 and the overflow its own decision D2; that it is a next state is
log 1, and that the record holds `pc - 2` and the instruction's encoding log 13). -/
def Obligations.StackFaultsChangeOnlyTheRecord : Prop :=
  (∀ s : State, s.stack = [] → ∃ t, exec .ret s = .next t ∧ Faulted .stackUnderflow 0x00EE s t) ∧
  (∀ (nnn : Addr) (s : State), s.params.stackDepth ≤ s.stack.length →
    ∃ t, exec (.call nnn) s = .next t ∧ Faulted .stackOverflow (BitVec.ofNat 16 (0x2000 + nnn.toNat)) s t)

/-- A subroutine that leaves the stack as it found it returns to the instruction after the call, with the caller's stack
(40_flow.md; that room on the stack means STACK_DEPTH is the spec's own decision D2). -/
def Obligations.CallThenRetResumes : Prop :=
  ∀ (nnn : Addr) (s t u : State), s.stack.length < s.params.stackDepth → exec (.call nnn) s = .next t →
    u.stack = t.stack → ∃ r, exec .ret u = .next r ∧ r.pc = s.pc ∧ r.stack = s.stack

/-! ### Skips on registers (41_skip.md) -/

/-- SE_IMM and SNE_IMM: their encodings, and `pc` two further on exactly when the condition holds, nothing else changed
(41_skip.md R140, R141). -/
def Obligations.LiteralSkips : Prop :=
  (∀ (x : Reg) (nn : Byte), decodeWord (0x3#4 ++ x ++ nn) = .ok (.seImm x nn) ∧
    decodeWord (0x4#4 ++ x ++ nn) = .ok (.sneImm x nn)) ∧
  (∀ (x : Reg) (nn : Byte) (s : State),
    (∃ t, exec (.seImm x nn) s = .next t ∧ t.pc = (if s.reg x = nn then s.pc + 2 else s.pc) ∧ OnlyPc s t) ∧
    (∃ t, exec (.sneImm x nn) s = .next t ∧ t.pc = (if s.reg x ≠ nn then s.pc + 2 else s.pc) ∧ OnlyPc s t))

/-- SE_REG and SNE_REG: their encodings, the low nibble 0 and no other, and `pc` two further on exactly when the condition
holds, nothing else changed (41_skip.md; that another low nibble is unrecognized is the spec's own decision D13). -/
def Obligations.RegisterSkips : Prop :=
  (∀ x y : Reg, decodeWord (0x5#4 ++ x ++ y ++ 0x0#4) = .ok (.seReg x y) ∧
    decodeWord (0x9#4 ++ x ++ y ++ 0x0#4) = .ok (.sneReg x y)) ∧
  (∀ (x y : Reg) (n : Nibble), n ≠ 0 → decodeWord (0x5#4 ++ x ++ y ++ n) = .error .group5 ∧
    decodeWord (0x9#4 ++ x ++ y ++ n) = .error .group9) ∧
  (∀ (x y : Reg) (s : State),
    (∃ t, exec (.seReg x y) s = .next t ∧ t.pc = (if s.reg x = s.reg y then s.pc + 2 else s.pc) ∧ OnlyPc s t) ∧
    (∃ t, exec (.sneReg x y) s = .next t ∧ t.pc = (if s.reg x ≠ s.reg y then s.pc + 2 else s.pc) ∧ OnlyPc s t))

/-! ### Literals and random (42_const.md) -/

/-- LD_IMM puts NN into `V[X]`, ADD_IMM adds NN modulo 256 and writes no flag: their encodings, their results, and nothing
else changed, VF included unless it is the destination (42_const.md R150, R151). -/
def Obligations.LiteralLoadAndAdd : Prop :=
  (∀ (x : Reg) (nn : Byte), decodeWord (0x6#4 ++ x ++ nn) = .ok (.ldImm x nn) ∧
    decodeWord (0x7#4 ++ x ++ nn) = .ok (.addImm x nn)) ∧
  (∀ (x : Reg) (nn : Byte) (s : State),
    (∃ t, exec (.ldImm x nn) s = .next t ∧ t.reg x = nn ∧ OtherRegs x s t ∧ OnlyRegs s t) ∧
    (∃ t, exec (.addImm x nn) s = .next t ∧ (t.reg x).toNat = ((s.reg x).toNat + nn.toNat) % 256 ∧
      OtherRegs x s t ∧ OnlyRegs s t))

/-- RND: `V[X]` is a drawn byte under the mask NN, whatever byte is drawn; it has no bit outside NN; nothing else changes
but the model's count of draws (42_const.md; that the byte is free is the spec's own decision D21 and log 7). -/
def Obligations.RndDrawsUnderTheMask : Prop :=
  ∀ (x : Reg) (nn : Byte) (s : State), ∃ t, exec (.rnd x nn) s = .next t ∧
    t.reg x = Config.draw s.draws &&& nn ∧ t.reg x &&& ~~~nn = 0 ∧ OtherRegs x s t ∧
    t = { s with v := t.v, draws := s.draws + 1 } ∧ SameMemory s t

/-! ### Arithmetic and logic (43_alu.md) -/

/-- LD_REG, OR, AND and XOR: bit by bit results into `V[X]`, nothing else changed, VF included unless it is the
destination (43_alu.md section 2; that VF is not written as a flag is the spec's own decision D22). -/
def Obligations.CopyAndLogicWriteNoFlag : Prop :=
  ∀ (x y : Reg) (s : State),
    (∃ t, exec (.ldReg x y) s = .next t ∧ t.reg x = s.reg y ∧ OtherRegs x s t ∧ OnlyRegs s t) ∧
    (∃ t, exec (.or x y) s = .next t ∧
      (∀ k, (t.reg x).getLsbD k = ((s.reg x).getLsbD k || (s.reg y).getLsbD k)) ∧ OtherRegs x s t ∧ OnlyRegs s t) ∧
    (∃ t, exec (.and x y) s = .next t ∧
      (∀ k, (t.reg x).getLsbD k = ((s.reg x).getLsbD k && (s.reg y).getLsbD k)) ∧ OtherRegs x s t ∧ OnlyRegs s t) ∧
    (∃ t, exec (.xor x y) s = .next t ∧
      (∀ k, (t.reg x).getLsbD k = ((s.reg x).getLsbD k ^^ (s.reg y).getLsbD k)) ∧ OtherRegs x s t ∧ OnlyRegs s t)

/-- ADD_REG: its encoding, the sum modulo 256 in `V[X]` unless VF is the destination, VF 1 exactly when the sum of the old
values exceeds 255, else 0, and nothing else changed (43_alu.md R165). -/
def Obligations.AddRegSetsCarry : Prop :=
  (∀ x y : Reg, decodeWord (0x8#4 ++ x ++ y ++ 0x4#4) = .ok (.addReg x y)) ∧
  (∀ (x y : Reg) (s : State), ∃ t, exec (.addReg x y) s = .next t ∧
    (x ≠ vF → (t.reg x).toNat = ((s.reg x).toNat + (s.reg y).toNat) % 256) ∧
    t.reg vF = (if (s.reg x).toNat + (s.reg y).toNat > 255 then 1 else 0) ∧
    OtherRegsButFlag x s t ∧ OnlyRegs s t)

/-- SUB and SUBN: their encodings, the difference modulo 256 in `V[X]` unless VF is the destination, VF 1 exactly when the
old values give no borrow, else 0, and nothing else changed (43_alu.md R166, R168). -/
def Obligations.SubtractsSetNoBorrow : Prop :=
  (∀ x y : Reg, decodeWord (0x8#4 ++ x ++ y ++ 0x5#4) = .ok (.sub x y) ∧
    decodeWord (0x8#4 ++ x ++ y ++ 0x7#4) = .ok (.subn x y)) ∧
  (∀ (x y : Reg) (s : State), ∃ t, exec (.sub x y) s = .next t ∧
    (x ≠ vF → ((t.reg x).toNat : Int) = ((s.reg x).toNat - (s.reg y).toNat : Int) % 256) ∧
    t.reg vF = (if (s.reg x).toNat ≥ (s.reg y).toNat then 1 else 0) ∧
    OtherRegsButFlag x s t ∧ OnlyRegs s t) ∧
  (∀ (x y : Reg) (s : State), ∃ t, exec (.subn x y) s = .next t ∧
    (x ≠ vF → ((t.reg x).toNat : Int) = ((s.reg y).toNat - (s.reg x).toNat : Int) % 256) ∧
    t.reg vF = (if (s.reg y).toNat ≥ (s.reg x).toNat then 1 else 0) ∧
    OtherRegsButFlag x s t ∧ OnlyRegs s t)

/-- SHR and SHL: their encodings; the value is `V[Y]` when Q_SHIFT is 0 and `V[X]` when it is 1; half of it, or its double
modulo 256, goes to `V[X]` unless VF is the destination; VF is bit 0, or bit 7, of the value; nothing else changes
(43_alu.md R167, R169). -/
def Obligations.ShiftsTakeTheirValueByTheToggle : Prop :=
  (∀ x y : Reg, decodeWord (0x8#4 ++ x ++ y ++ 0x6#4) = .ok (.shr x y) ∧
    decodeWord (0x8#4 ++ x ++ y ++ 0xE#4) = .ok (.shl x y)) ∧
  (∀ (x y : Reg) (s : State) (value : Nat),
    value = (if s.quirks.shift = false then (s.reg y).toNat else (s.reg x).toNat) →
    (∃ t, exec (.shr x y) s = .next t ∧ (x ≠ vF → (t.reg x).toNat = value / 2) ∧ (t.reg vF).toNat = value % 2 ∧
      OtherRegsButFlag x s t ∧ OnlyRegs s t) ∧
    (∃ t, exec (.shl x y) s = .next t ∧ (x ≠ vF → (t.reg x).toNat = value * 2 % 256) ∧
      (t.reg vF).toNat = value / 128 ∧ OtherRegsButFlag x s t ∧ OnlyRegs s t))

/-! ### Display (44_display.md) -/

/-- CLS: its encoding, every cell false, nothing else changed, VF included (44_display.md R180). -/
def Obligations.ClsClearsEveryCell : Prop :=
  decodeWord 0x00E0 = .ok .cls ∧
  (∀ s : State, ∃ t, exec .cls s = .next t ∧ (∀ col row, col < 64 → row < 32 → t.pixel col row = false) ∧
    t = { s with fb := t.fb } ∧ SameMemory s t)

/-- DRW with its rows inside memory turns over exactly the cells of the grid a sprite bit of 1 lands on, sets VF to 1 when
one of them was set before and to 0 otherwise, and changes nothing else; with N = 0 it draws nothing and needs no memory
(44_display.md; that the coordinates are read before VF is written and all rows are checked are the spec's own decisions
D12 and D3). -/
def Obligations.DrwTurnsOverTheSpritesCells : Prop :=
  ∀ (x y : Reg) (n : Nibble) (s : State), n = 0 ∨ s.index.toNat + n.toNat - 1 ≤ 4095 →
    ∃ t, exec (.drw x y n) s = .next t ∧
      (∀ col row, col < 64 → row < 32 → t.pixel col row = (s.pixel col row ^^ spriteBit s x y n col row)) ∧
      (Collides s x y n → t.reg vF = 1) ∧ (¬ Collides s x y n → t.reg vF = 0) ∧
      OtherRegs vF s t ∧ OnlyDisplayRegs s t

/-- Drawing the same sprite again at the same place gives the framebuffer back, and the second draw reports a collision
when the first had turned a cell on (44_display.md section on DXYN, the source's double-draw property). The place is the
same when the first draw has not changed the coordinate registers, as it does only through VF (the order of
that and the range check are the spec's own decisions D12 and D3). -/
def Obligations.DrawingTwiceRestoresTheDisplay : Prop :=
  ∀ (x y : Reg) (n : Nibble) (s t : State), n = 0 ∨ s.index.toNat + n.toNat - 1 ≤ 4095 →
    exec (.drw x y n) s = .next t → t.reg x = s.reg x → t.reg y = s.reg y →
    ∃ u, exec (.drw x y n) t = .next u ∧ u.fb = s.fb ∧
      ((∃ col row, col < 64 ∧ row < 32 ∧ spriteBit s x y n col row = true ∧ s.pixel col row = false) →
        u.reg vF = 1)

/-- LD_F: `I` becomes 0x050 plus five times the low nibble of `V[X]`, or five times all of it when FONT_INDEX_MASK is
false; nothing else changes (44_display.md; the mask is the spec's own decision D7). -/
def Obligations.LdFPointsAtTheGlyph : Prop :=
  ∀ (x : Reg) (s : State), ∃ t, exec (.ldF x) s = .next t ∧
    t.index.toNat = (if s.params.fontIndexMask then 0x050 + 5 * ((s.reg x).toNat % 16)
      else 0x050 + 5 * (s.reg x).toNat) ∧ OnlyIndex s t

/-! ### Keypad and timers (45_keypad_timers.md) -/

/-- SKP skips exactly when a key is latched and equals all 8 bits of `V[X]`, SKNP exactly when not; nothing but `pc`
changes (45_keypad_timers.md; the width of the comparison is the spec's own decision D18). -/
def Obligations.KeySkipsAreComplements : Prop :=
  ∀ (x : Reg) (s : State),
    (∃ t, exec (.skp x) s = .next t ∧
      t.pc = (if (∃ k, s.key = some k ∧ k.toNat = (s.reg x).toNat) then s.pc + 2 else s.pc) ∧ OnlyPc s t) ∧
    (∃ t, exec (.sknp x) s = .next t ∧
      t.pc = (if (∃ k, s.key = some k ∧ k.toNat = (s.reg x).toNat) then s.pc else s.pc + 2) ∧ OnlyPc s t)

/-- LD_VX_K: its encoding; without a latched key `pc` goes back by 2 and nothing else changes; with one it goes to `V[X]`
and nothing else changes, the latch included (45_keypad_timers.md R192). -/
def Obligations.WaitForKeySpinsOrStores : Prop :=
  (∀ x : Reg, decodeWord (0xF#4 ++ x ++ 0x0A#8) = .ok (.ldVxK x)) ∧
  (∀ (x : Reg) (s : State), s.key = none → ∃ t, exec (.ldVxK x) s = .next t ∧ t.pc = s.pc - 2 ∧ OnlyPc s t) ∧
  (∀ (x : Reg) (k : Key) (s : State), s.key = some k → ∃ t, exec (.ldVxK x) s = .next t ∧
    (t.reg x).toNat = k.toNat ∧ OtherRegs x s t ∧ OnlyRegs s t)

/-- LD_VX_DT copies DT into `V[X]`, LD_DT_VX copies `V[X]` into DT and LD_ST_VX into ST: their encodings, and nothing else
changed (45_keypad_timers.md R193, R194, R195). -/
def Obligations.TimerMoves : Prop :=
  (∀ x : Reg, decodeWord (0xF#4 ++ x ++ 0x07#8) = .ok (.ldVxDt x) ∧
    decodeWord (0xF#4 ++ x ++ 0x15#8) = .ok (.ldDtVx x) ∧ decodeWord (0xF#4 ++ x ++ 0x18#8) = .ok (.ldStVx x)) ∧
  (∀ (x : Reg) (s : State),
    (∃ t, exec (.ldVxDt x) s = .next t ∧ t.reg x = s.dt ∧ OtherRegs x s t ∧ OnlyRegs s t) ∧
    (∃ t, exec (.ldDtVx x) s = .next t ∧ t = { s with dt := s.reg x } ∧ SameMemory s t) ∧
    (∃ t, exec (.ldStVx x) s = .next t ∧ t = { s with st := s.reg x } ∧ SameMemory s t))

/-! ### Index register and memory (46_index_memory.md) -/

/-- LD_I: its encoding, `I` becomes NNN, and nothing else changes; no other instruction lowers `I`, but LD_F and the wrap of
ADD_I (46_index_memory.md R200). -/
def Obligations.LdILoadsTheLiteral : Prop :=
  (∀ nnn : Addr, decodeWord (0xA#4 ++ nnn) = .ok (.ldI nnn)) ∧
  (∀ (nnn : Addr) (s : State), ∃ t, exec (.ldI nnn) s = .next t ∧ t.index.toNat = nnn.toNat ∧ OnlyIndex s t) ∧
  (∀ (i : Instr) (s t : State), exec i s = .next t → t.index.toNat < s.index.toNat →
    (∃ nnn, i = .ldI nnn) ∨ (∃ x, i = .ldF x) ∨ (∃ x, i = .addI x ∧ 65536 ≤ s.index.toNat + (s.reg x).toNat))

/-- ADD_I: `I` becomes the sum modulo 65536 and VF is 1 exactly when the unreduced sum exceeds ADDI_THRESHOLD, else 0;
nothing else changes (46_index_memory.md; the wrap and the parameter are the spec's own decisions D9 and D8). -/
def Obligations.AddISetsTheRangeFlag : Prop :=
  ∀ (x : Reg) (s : State), ∃ t, exec (.addI x) s = .next t ∧
    t.index.toNat = (s.index.toNat + (s.reg x).toNat) % 65536 ∧
    t.reg vF = (if s.index.toNat + (s.reg x).toNat > s.params.addiThreshold then 1 else 0) ∧
    OtherRegs vF s t ∧ OnlyIndexRegs s t

/-- LD_B inside memory stores the hundreds, tens and units of `V[X]` at `I`, `I + 1` and `I + 2` and changes nothing else
(46_index_memory.md; the range check is the spec's own decision D3). Memory is in its canonical form (log 10), as
the invariant says. -/
def Obligations.LdBStoresTheDigits : Prop :=
  ∀ (x : Reg) (s : State), s.index.toNat + 2 ≤ 4095 → Memory.wf s.params.fontRom s.mem = true →
    ∃ t, exec (.ldB x) s = .next t ∧
      (t.byte s.index.toNat).toNat = (s.reg x).toNat / 100 ∧
      (t.byte (s.index.toNat + 1)).toNat = (s.reg x).toNat / 10 % 10 ∧
      (t.byte (s.index.toNat + 2)).toNat = (s.reg x).toNat % 10 ∧
      (∀ a, a < s.index.toNat ∨ s.index.toNat + 2 < a → t.byte a = s.byte a) ∧ t = { s with mem := t.mem }

/-- ST_REGS inside memory stores `V[0]` to `V[X]` at `I` on, adds X + 1 to `I` when Q_MEM is 0, and changes nothing else
(46_index_memory.md; the range check is the spec's own decision D3). Memory is in its canonical form (log 10), as
the invariant says. -/
def Obligations.StRegsStoresTheBlock : Prop :=
  ∀ (x : Reg) (s : State), s.index.toNat + x.toNat ≤ 4095 → Memory.wf s.params.fontRom s.mem = true →
    ∃ t, exec (.stRegs x) s = .next t ∧
      (∀ y : Reg, y.toNat ≤ x.toNat → t.byte (s.index.toNat + y.toNat) = s.reg y) ∧
      (∀ a, a < s.index.toNat ∨ s.index.toNat + x.toNat < a → t.byte a = s.byte a) ∧
      t.index.toNat = (if s.quirks.mem then s.index.toNat else s.index.toNat + x.toNat + 1) ∧ OnlyMemoryIndex s t

/-- LD_REGS inside memory loads `V[0]` to `V[X]` from `I` on, adds X + 1 to `I` when Q_MEM is 0, and changes nothing else,
VF included unless X is 15 (46_index_memory.md; the range check is the spec's own decision D3). -/
def Obligations.LdRegsLoadsTheBlock : Prop :=
  ∀ (x : Reg) (s : State), s.index.toNat + x.toNat ≤ 4095 →
    ∃ t, exec (.ldRegs x) s = .next t ∧
      (∀ y : Reg, y.toNat ≤ x.toNat → t.reg y = s.byte (s.index.toNat + y.toNat)) ∧
      (∀ y : Reg, x.toNat < y.toNat → t.reg y = s.reg y) ∧
      t.index.toNat = (if s.quirks.mem then s.index.toNat else s.index.toNat + x.toNat + 1) ∧ OnlyIndexRegs s t

/-- Registers stored as a block, changed, and loaded back from the same `I` have their old values again
(46_index_memory.md, the source's scenario S2 of 95_test_vectors.md; the range check is the spec's own decision D3). Memory is
in its canonical form (log 10), as the invariant says. -/
def Obligations.StoredRegistersLoadBack : Prop :=
  ∀ (x : Reg) (s t u : State), s.index.toNat + x.toNat ≤ 4095 → Memory.wf s.params.fontRom s.mem = true →
    exec (.stRegs x) s = .next t → u.mem = t.mem → u.params = t.params → u.index = s.index →
    ∃ r, exec (.ldRegs x) u = .next r ∧ ∀ y : Reg, y.toNat ≤ x.toNat → r.reg y = s.reg y

/-- DRW, LD_B, ST_REGS and LD_REGS whose last address lies above 4095 record MemOutOfRange with their own word and change
nothing else (20_memory.md section 3; the fault is the spec's own decision D3 and its record D14; that it is a next state is
log 1, and that the record holds `pc - 2` and the instruction's encoding log 13). -/
def Obligations.DataOutOfRangeChangesOnlyTheRecord : Prop :=
  (∀ (x y : Reg) (n : Nibble) (s : State), n ≠ 0 → 4095 < s.index.toNat + n.toNat - 1 →
    ∃ t, exec (.drw x y n) s = .next t ∧ Faulted .memOutOfRange (0xD#4 ++ x ++ y ++ n) s t) ∧
  (∀ (x : Reg) (s : State), 4095 < s.index.toNat + 2 →
    ∃ t, exec (.ldB x) s = .next t ∧ Faulted .memOutOfRange (0xF#4 ++ x ++ 0x33#8) s t) ∧
  (∀ (x : Reg) (s : State), 4095 < s.index.toNat + x.toNat →
    (∃ t, exec (.stRegs x) s = .next t ∧ Faulted .memOutOfRange (0xF#4 ++ x ++ 0x55#8) s t) ∧
    (∃ t, exec (.ldRegs x) s = .next t ∧ Faulted .memOutOfRange (0xF#4 ++ x ++ 0x65#8) s t))

/-- A stored byte is what the very next fetch reads, for both stores: the word at `pc` is made of the bytes stored there, the
lower address the high byte, and of the old bytes where the store does not reach, so that a store over one byte of the word
alone is covered (20_memory.md section 6; that the addresses are checked as a whole is the spec's own decision D3). Memory is
in its canonical form (log 10), as the invariant says. -/
def Obligations.StoredBytesAreFetchedNext : Prop :=
  (∀ (x : Reg) (s t : State), s.index.toNat + x.toNat ≤ 4095 → Memory.wf s.params.fontRom s.mem = true →
    exec (.stRegs x) s = .next t → s.pc.toNat ≤ 4094 →
    t.fetch = some (blockByte s x s.pc.toNat ++ blockByte s x (s.pc.toNat + 1), { t with pc := s.pc + 2 })) ∧
  (∀ (x : Reg) (s t : State), s.index.toNat + 2 ≤ 4095 → Memory.wf s.params.fontRom s.mem = true →
    exec (.ldB x) s = .next t → s.pc.toNat ≤ 4094 →
    t.fetch = some (digitByte s x s.pc.toNat ++ digitByte s x (s.pc.toNat + 1), { t with pc := s.pc + 2 }))

/-! ### Rules of the whole machine -/

/-- Every instruction answers a next state, in every state: none is refused and none stops the model. Away from the fault
conditions an instruction is a total function (60_exceptions.md section 1); that a fault condition of RET, CALL, DRW, LD_B,
ST_REGS and LD_REGS is a next state with a record is the model's choice (log 1) on the spec's own decision D14. -/
def Obligations.EveryInstructionAnswersANextState : Prop :=
  ∀ (i : Instr) (s : State), ∃ t, exec i s = .next t

/-- Which fault each instruction raises is the table of 60_exceptions.md section 1, and a faulting instruction changes
nothing but the record, which holds its address and its word (the spec's own decision D14, a next state by log 1 and the
word its encoding by log 13; StackOverflow and MemOutOfRange are its own decisions D2 and D3). -/
def Obligations.FaultsAreTheTablesAndPrecise : Prop :=
  ∀ (i : Instr) (s t : State), s.fault = none → exec i s = .next t →
    t.fault = faultOf i s ∧ (∀ f, faultOf i s = some f → Faulted f (encodeWord i) s t)

/-- Where each instruction leaves `pc` (10_state.md section 2, the list derived there), when `pc` is one a fetch leaves, 2 to
4096. A faulting one leaves it alone (the spec's own decision D14, with D2 and D3 for which ones fault). BNNN without its
toggle adds nothing by the spec's own decision D10, and SKP and SKNP compare 8 bits by its own decision D18 (log 16). -/
def Obligations.PcAfterEveryInstruction : Prop :=
  ∀ (i : Instr) (s t : State), 2 ≤ s.pc.toNat → s.pc.toNat ≤ 4096 → exec i s = .next t →
    (faultOf i s = none → t.pc.toNat = pcAfter i s) ∧ (faultOf i s ≠ none → t.pc = s.pc)

/-- An instruction changes no general register but the one it writes as data and VF when it writes a flag (10_state.md
sections 1 and 3, the list derived there). That LD_REG, OR, AND and XOR leave VF alone is the spec's own decision D22
(log 16). -/
def Obligations.RegistersChangeOnlyAsListed : Prop :=
  ∀ (i : Instr) (s t : State) (r : Reg), exec i s = .next t → writesData i r = false →
    (r = vF → writesFlag i = false) → t.reg r = s.reg r

/-- An instruction that writes VF as a flag and does not fault leaves exactly 0 or 1 in it, whatever its destination
(10_state.md section 3; which DRW faults is the spec's own decision D3). -/
def Obligations.FlagsAreZeroOrOne : Prop :=
  ∀ (i : Instr) (s t : State), writesFlag i = true → faultOf i s = none → exec i s = .next t →
    t.reg vF = 0 ∨ t.reg vF = 1

/-- Each piece of state is written only by the instructions the spec names for it: `I` by five, the stack by two, each
timer by one, memory by two, the framebuffer by two; the key latch, the toggles, the parameters and the model's schedule
by none (10_state.md sections 4 to 8; the schedule is log 3, the load fields log 14, the count of draws log 7). -/
def Obligations.OnlyNamedInstructionsWriteEachState : Prop :=
  ∀ (i : Instr) (s t : State), exec i s = .next t →
    t.key = s.key ∧ t.quirks = s.quirks ∧ t.params = s.params ∧ t.schedule = s.schedule ∧ t.loadable = s.loadable ∧
    t.loadFailed = s.loadFailed ∧
    (i.mnemonic ∉ ["LD_I", "ADD_I", "LD_F", "ST_REGS", "LD_REGS"] → t.index = s.index) ∧
    (i.mnemonic ∉ ["CALL", "RET"] → t.stack = s.stack) ∧
    (i.mnemonic ∉ ["LD_DT_VX"] → t.dt = s.dt) ∧ (i.mnemonic ∉ ["LD_ST_VX"] → t.st = s.st) ∧
    (i.mnemonic ∉ ["LD_B", "ST_REGS"] → SameMemory s t) ∧
    (i.mnemonic ∉ ["CLS", "DRW"] → ∀ col row, t.pixel col row = s.pixel col row) ∧
    (i.mnemonic ∉ ["RND"] → t.draws = s.draws)

/-- The two stores leave every byte outside their own addresses alone, in every state: LD_B touches `I` to `I + 2`, ST_REGS
`I` to `I + X` (46_index_memory.md). And they read no flag and no register but their operands: from two states that agree on
`I`, memory, its reset content and `V[X]` (for ST_REGS `V[0]` to `V[X]`) and on nothing else, they leave the same memory. -/
def Obligations.StoresTouchOnlyTheirOwnBytes : Prop :=
  (∀ (x : Reg) (s t : State) (a : Nat), exec (.ldB x) s = .next t →
    a < s.index.toNat ∨ s.index.toNat + 2 < a → t.byte a = s.byte a) ∧
  (∀ (x : Reg) (s t : State) (a : Nat), exec (.stRegs x) s = .next t →
    a < s.index.toNat ∨ s.index.toNat + x.toNat < a → t.byte a = s.byte a) ∧
  (∀ (x : Reg) (s s' t t' : State), s'.index = s.index → s'.mem = s.mem → s'.params.fontRom = s.params.fontRom →
    s'.reg x = s.reg x → exec (.ldB x) s = .next t → exec (.ldB x) s' = .next t' → t'.mem = t.mem) ∧
  (∀ (x : Reg) (s s' t t' : State), s'.index = s.index → s'.mem = s.mem → s'.params.fontRom = s.params.fontRom →
    (∀ y : Reg, y.toNat ≤ x.toNat → s'.reg y = s.reg y) → exec (.stRegs x) s = .next t →
    exec (.stRegs x) s' = .next t' → t'.mem = t.mem)

/-- A tick and an instruction that neither reads nor writes a timer can change places: the timers reach nothing else
(10_state.md section 4; 00_scope.md section 4). -/
def Obligations.TicksCommuteWithOtherInstructions : Prop :=
  ∀ (i : Instr) (s t : State), i.mnemonic ∉ ["LD_VX_DT", "LD_DT_VX", "LD_ST_VX"] → exec i s = .next t →
    exec i s.tick = .next t.tick

/-- A key update and an instruction that does not read the latch can change places (10_state.md section 8; 00_scope.md
section 4). -/
def Obligations.KeyUpdatesCommuteWithOtherInstructions : Prop :=
  ∀ (i : Instr) (s t : State) (k : Option Key), i.mnemonic ∉ ["SKP", "SKNP", "LD_VX_K"] → exec i s = .next t →
    exec i (s.setKey k) = .next (t.setKey k)

/-- No step but a reset changes the toggles or the parameters (00_scope.md section 5, 10_state.md section 4; that they stand
in State is log 5, and that a reset may come at any time is the spec's own decision D19). -/
def Obligations.ConfigurationIsFixedBetweenResets : Prop :=
  ∀ s t : State, (∀ q p, s.nextMove ≠ .reset q p) → step s = .next t → t.quirks = s.quirks ∧ t.params = s.params

/-! ### The invariant -/

/-- The state after construction meets the invariant, for every setting of the arguments and every schedule. What the
invariant says is the model's (EveryStepKeepsTheInvariant names its grounds). -/
def Obligations.ConstructionMeetsTheInvariant : Prop :=
  State.reset.Inv ∧ ∀ (q : Quirks) (p : Params) (l : List AgentMove),
    State.Inv { State.resetWith q p with schedule := l }

/-- Every step of every agent keeps the invariant: memory in canonical form (log 10), at most STACK_DEPTH return addresses
(the spec's own decision D2), each at most 4096, `pc` at most 4350 (10_state.md sections 2 and 5), the fault record in
agreement with `pc` (the spec's own decision D14), and no fault recorded while a load is enabled or has failed (the spec's
own decision D19, log 14). -/
def Obligations.EveryStepKeepsTheInvariant : Prop :=
  ∀ s t : State, s.Inv → step s = .next t → t.Inv

/-- In every run from construction, under every interleaving of the agents (log 3), `pc` stays at or below 4350 (10_state.md
section 2, the bound derived there), the stack holds at most STACK_DEPTH entries (the spec's own decision D2), and memory
stays in its canonical form (log 10). -/
def Obligations.RunsStayWithinTheBounds : Prop :=
  ∀ (q : Quirks) (p : Params) (l : List AgentMove) (t : State),
    Runs { State.resetWith q p with schedule := l } t →
    t.pc.toNat ≤ 4350 ∧ t.stack.length ≤ t.params.stackDepth ∧ Memory.wf t.params.fontRom t.mem = true
end

