-- ==== Sys2Proof/Laws/Decode.lean ====
section
/-!
SUPPORT. Laws/Decode.lean: the fields of a word of each form, and a word put together from its fields.
-/
namespace Sys2Proof

@[simp] theorem opG_formNNN (g : BitVec 4) (nnn : Addr) : opG (formNNN g nnn) = g := by
  apply BitVec.eq_of_getLsbD_eq
  intro i hi
  simp only [opG, BitVec.getLsbD_extractLsb', hi, decide_true, Bool.true_and]
  change (g ++ nnn : BitVec (4 + 12)).getLsbD _ = _
  simp only [BitVec.getLsbD_append]
  grind

@[simp] theorem opNNN_formNNN (g : BitVec 4) (nnn : Addr) : opNNN (formNNN g nnn) = nnn := by
  apply BitVec.eq_of_getLsbD_eq
  intro i hi
  simp only [opNNN, BitVec.getLsbD_extractLsb', hi, decide_true, Bool.true_and]
  change (g ++ nnn : BitVec (4 + 12)).getLsbD _ = _
  simp only [BitVec.getLsbD_append]
  grind

@[simp] theorem opX_formNNN (g : BitVec 4) (nnn : Addr) : opX (formNNN g nnn) = nnn.extractLsb' 8 4 := by
  apply BitVec.eq_of_getLsbD_eq
  intro i hi
  simp only [opX, BitVec.getLsbD_extractLsb', hi, decide_true, Bool.true_and]
  change (g ++ nnn : BitVec (4 + 12)).getLsbD _ = _
  simp only [BitVec.getLsbD_append]
  grind

@[simp] theorem opG_formXNN (g : BitVec 4) (x : Reg) (nn : Byte) : opG (formXNN g x nn) = g := by
  apply BitVec.eq_of_getLsbD_eq
  intro i hi
  simp only [opG, BitVec.getLsbD_extractLsb', hi, decide_true, Bool.true_and]
  change (g ++ x ++ nn : BitVec (4 + 4 + 8)).getLsbD _ = _
  simp only [BitVec.getLsbD_append]
  grind

@[simp] theorem opX_formXNN (g : BitVec 4) (x : Reg) (nn : Byte) : opX (formXNN g x nn) = x := by
  apply BitVec.eq_of_getLsbD_eq
  intro i hi
  simp only [opX, BitVec.getLsbD_extractLsb', hi, decide_true, Bool.true_and]
  change (g ++ x ++ nn : BitVec (4 + 4 + 8)).getLsbD _ = _
  simp only [BitVec.getLsbD_append]
  grind

@[simp] theorem opNN_formXNN (g : BitVec 4) (x : Reg) (nn : Byte) : opNN (formXNN g x nn) = nn := by
  apply BitVec.eq_of_getLsbD_eq
  intro i hi
  simp only [opNN, BitVec.getLsbD_extractLsb', hi, decide_true, Bool.true_and]
  change (g ++ x ++ nn : BitVec (4 + 4 + 8)).getLsbD _ = _
  simp only [BitVec.getLsbD_append]
  grind

@[simp] theorem opG_formXYN (g : BitVec 4) (x y : Reg) (n : Nibble) : opG (formXYN g x y n) = g := by
  apply BitVec.eq_of_getLsbD_eq
  intro i hi
  simp only [opG, BitVec.getLsbD_extractLsb', hi, decide_true, Bool.true_and]
  change (g ++ x ++ y ++ n : BitVec (4 + 4 + 4 + 4)).getLsbD _ = _
  simp only [BitVec.getLsbD_append]
  grind

@[simp] theorem opX_formXYN (g : BitVec 4) (x y : Reg) (n : Nibble) : opX (formXYN g x y n) = x := by
  apply BitVec.eq_of_getLsbD_eq
  intro i hi
  simp only [opX, BitVec.getLsbD_extractLsb', hi, decide_true, Bool.true_and]
  change (g ++ x ++ y ++ n : BitVec (4 + 4 + 4 + 4)).getLsbD _ = _
  simp only [BitVec.getLsbD_append]
  grind

@[simp] theorem opY_formXYN (g : BitVec 4) (x y : Reg) (n : Nibble) : opY (formXYN g x y n) = y := by
  apply BitVec.eq_of_getLsbD_eq
  intro i hi
  simp only [opY, BitVec.getLsbD_extractLsb', hi, decide_true, Bool.true_and]
  change (g ++ x ++ y ++ n : BitVec (4 + 4 + 4 + 4)).getLsbD _ = _
  simp only [BitVec.getLsbD_append]
  grind

@[simp] theorem opN_formXYN (g : BitVec 4) (x y : Reg) (n : Nibble) : opN (formXYN g x y n) = n := by
  apply BitVec.eq_of_getLsbD_eq
  intro i hi
  simp only [opN, BitVec.getLsbD_extractLsb', hi, decide_true, Bool.true_and]
  change (g ++ x ++ y ++ n : BitVec (4 + 4 + 4 + 4)).getLsbD _ = _
  simp only [BitVec.getLsbD_append]
  grind

/-- A word is its group and its NNN. -/
theorem formNNN_fields (w : Word) : formNNN (opG w) (opNNN w) = w := by
  apply BitVec.eq_of_getLsbD_eq
  intro i hi
  change (w.extractLsb' 12 4 ++ w.extractLsb' 0 12 : BitVec (4 + 12)).getLsbD i = w.getLsbD i
  simp only [BitVec.getLsbD_append, BitVec.getLsbD_extractLsb']
  split
  · simp [*]
  · rw [show 12 + (i - 12) = i by omega]
    simp
    omega

/-- A word is its group, its X and its NN. -/
theorem formXNN_fields (w : Word) : formXNN (opG w) (opX w) (opNN w) = w := by
  apply BitVec.eq_of_getLsbD_eq
  intro i hi
  change (w.extractLsb' 12 4 ++ w.extractLsb' 8 4 ++ w.extractLsb' 0 8 : BitVec (4 + 4 + 8)).getLsbD i = w.getLsbD i
  simp only [BitVec.getLsbD_append, BitVec.getLsbD_extractLsb']
  split
  · simp [*]
  · split
    · rw [show 8 + (i - 8) = i by omega]
      simp [*]
    · rw [show 12 + (i - 8 - 4) = i by omega]
      simp
      omega

/-- A word is its group, its X, its Y and its N. -/
theorem formXYN_fields (w : Word) : formXYN (opG w) (opX w) (opY w) (opN w) = w := by
  apply BitVec.eq_of_getLsbD_eq
  intro i hi
  change (w.extractLsb' 12 4 ++ w.extractLsb' 8 4 ++ w.extractLsb' 4 4 ++ w.extractLsb' 0 4 :
    BitVec (4 + 4 + 4 + 4)).getLsbD i = w.getLsbD i
  simp only [BitVec.getLsbD_append, BitVec.getLsbD_extractLsb']
  split
  · simp [*]
  · split
    · rw [show 4 + (i - 4) = i by omega]
      simp [*]
    · split
      · rw [show 8 + (i - 4 - 4) = i by omega]
        simp [*]
      · rw [show 12 + (i - 4 - 4 - 4) = i by omega]
        simp
        omega

/-- The bytes of a word put together again give the word. -/
theorem wordOfBytes_bytesOfWord (w : Word) : wordOfBytes (w.extractLsb' 8 8) (w.extractLsb' 0 8) = w := by
  apply BitVec.eq_of_getLsbD_eq
  intro i hi
  change (w.extractLsb' 8 8 ++ w.extractLsb' 0 8 : BitVec (8 + 8)).getLsbD i = w.getLsbD i
  simp only [BitVec.getLsbD_append, BitVec.getLsbD_extractLsb']
  split
  · simp [*]
  · rw [show 8 + (i - 8) = i by omega]
    simp
    omega

/-- Decoding the two bytes of a word, whatever follows, is decoding the word. -/
theorem decode_bytesOfWord (w : Word) (rest : List Byte) :
    decode (bytesOfWord w ++ rest) = (decodeWord w).map (fun i => (i, rest)) := by
  simp only [bytesOfWord, List.cons_append, List.nil_append, decode, wordOfBytes_bytesOfWord]

end Sys2Proof
end

