-- ==== Sys2Proof/Laws/State.lean ====
section
/-!
SUPPORT. Laws/State.lean: what each named update does to each field and to each accessor, so that no proof unfolds a record
update.
-/
namespace Sys2Proof.Machine

variable (s : State)

/-! ### setReg -/

@[simp] theorem State.setReg_v (x : Reg) (b : Byte) : (s.setReg x b).v = s.v.set x.toNat b x.isLt := rfl
@[simp] theorem State.setReg_pc (x : Reg) (b : Byte) : (s.setReg x b).pc = s.pc := rfl
@[simp] theorem State.setReg_index (x : Reg) (b : Byte) : (s.setReg x b).index = s.index := rfl
@[simp] theorem State.setReg_stack (x : Reg) (b : Byte) : (s.setReg x b).stack = s.stack := rfl
@[simp] theorem State.setReg_dt (x : Reg) (b : Byte) : (s.setReg x b).dt = s.dt := rfl
@[simp] theorem State.setReg_st (x : Reg) (b : Byte) : (s.setReg x b).st = s.st := rfl
@[simp] theorem State.setReg_mem (x : Reg) (b : Byte) : (s.setReg x b).mem = s.mem := rfl
@[simp] theorem State.setReg_fb (x : Reg) (b : Byte) : (s.setReg x b).fb = s.fb := rfl
@[simp] theorem State.setReg_key (x : Reg) (b : Byte) : (s.setReg x b).key = s.key := rfl
@[simp] theorem State.setReg_quirks (x : Reg) (b : Byte) : (s.setReg x b).quirks = s.quirks := rfl
@[simp] theorem State.setReg_fault (x : Reg) (b : Byte) : (s.setReg x b).fault = s.fault := rfl
@[simp] theorem State.setReg_faultAddr (x : Reg) (b : Byte) : (s.setReg x b).faultAddr = s.faultAddr := rfl
@[simp] theorem State.setReg_faultOpcode (x : Reg) (b : Byte) : (s.setReg x b).faultOpcode = s.faultOpcode := rfl
@[simp] theorem State.setReg_params (x : Reg) (b : Byte) : (s.setReg x b).params = s.params := rfl
@[simp] theorem State.setReg_loadable (x : Reg) (b : Byte) : (s.setReg x b).loadable = s.loadable := rfl
@[simp] theorem State.setReg_loadFailed (x : Reg) (b : Byte) : (s.setReg x b).loadFailed = s.loadFailed := rfl
@[simp] theorem State.setReg_schedule (x : Reg) (b : Byte) : (s.setReg x b).schedule = s.schedule := rfl
@[simp] theorem State.setReg_draws (x : Reg) (b : Byte) : (s.setReg x b).draws = s.draws := rfl
@[simp] theorem State.setReg_byte (x : Reg) (b : Byte) (adr : Nat) : (s.setReg x b).byte adr = s.byte adr := rfl
@[simp] theorem State.setReg_pixel (x : Reg) (b : Byte) (col row : Nat) : (s.setReg x b).pixel col row = s.pixel col row := rfl

/-! ### setLowRegs -/

@[simp] theorem State.setLowRegs_v (bs : List Byte) : (s.setLowRegs bs).v = fillFrom s.v 0 bs := rfl
@[simp] theorem State.setLowRegs_pc (bs : List Byte) : (s.setLowRegs bs).pc = s.pc := rfl
@[simp] theorem State.setLowRegs_index (bs : List Byte) : (s.setLowRegs bs).index = s.index := rfl
@[simp] theorem State.setLowRegs_stack (bs : List Byte) : (s.setLowRegs bs).stack = s.stack := rfl
@[simp] theorem State.setLowRegs_dt (bs : List Byte) : (s.setLowRegs bs).dt = s.dt := rfl
@[simp] theorem State.setLowRegs_st (bs : List Byte) : (s.setLowRegs bs).st = s.st := rfl
@[simp] theorem State.setLowRegs_mem (bs : List Byte) : (s.setLowRegs bs).mem = s.mem := rfl
@[simp] theorem State.setLowRegs_fb (bs : List Byte) : (s.setLowRegs bs).fb = s.fb := rfl
@[simp] theorem State.setLowRegs_key (bs : List Byte) : (s.setLowRegs bs).key = s.key := rfl
@[simp] theorem State.setLowRegs_quirks (bs : List Byte) : (s.setLowRegs bs).quirks = s.quirks := rfl
@[simp] theorem State.setLowRegs_fault (bs : List Byte) : (s.setLowRegs bs).fault = s.fault := rfl
@[simp] theorem State.setLowRegs_faultAddr (bs : List Byte) : (s.setLowRegs bs).faultAddr = s.faultAddr := rfl
@[simp] theorem State.setLowRegs_faultOpcode (bs : List Byte) : (s.setLowRegs bs).faultOpcode = s.faultOpcode := rfl
@[simp] theorem State.setLowRegs_params (bs : List Byte) : (s.setLowRegs bs).params = s.params := rfl
@[simp] theorem State.setLowRegs_loadable (bs : List Byte) : (s.setLowRegs bs).loadable = s.loadable := rfl
@[simp] theorem State.setLowRegs_loadFailed (bs : List Byte) : (s.setLowRegs bs).loadFailed = s.loadFailed := rfl
@[simp] theorem State.setLowRegs_schedule (bs : List Byte) : (s.setLowRegs bs).schedule = s.schedule := rfl
@[simp] theorem State.setLowRegs_draws (bs : List Byte) : (s.setLowRegs bs).draws = s.draws := rfl
@[simp] theorem State.setLowRegs_byte (bs : List Byte) (adr : Nat) : (s.setLowRegs bs).byte adr = s.byte adr := rfl
@[simp] theorem State.setLowRegs_pixel (bs : List Byte) (col row : Nat) : (s.setLowRegs bs).pixel col row = s.pixel col row := rfl

/-! ### setFlag -/

@[simp] theorem State.setFlag_v (c : Bool) : (s.setFlag c).v = s.v.set vF.toNat (flagByte c) vF.isLt := rfl
@[simp] theorem State.setFlag_pc (c : Bool) : (s.setFlag c).pc = s.pc := rfl
@[simp] theorem State.setFlag_index (c : Bool) : (s.setFlag c).index = s.index := rfl
@[simp] theorem State.setFlag_stack (c : Bool) : (s.setFlag c).stack = s.stack := rfl
@[simp] theorem State.setFlag_dt (c : Bool) : (s.setFlag c).dt = s.dt := rfl
@[simp] theorem State.setFlag_st (c : Bool) : (s.setFlag c).st = s.st := rfl
@[simp] theorem State.setFlag_mem (c : Bool) : (s.setFlag c).mem = s.mem := rfl
@[simp] theorem State.setFlag_fb (c : Bool) : (s.setFlag c).fb = s.fb := rfl
@[simp] theorem State.setFlag_key (c : Bool) : (s.setFlag c).key = s.key := rfl
@[simp] theorem State.setFlag_quirks (c : Bool) : (s.setFlag c).quirks = s.quirks := rfl
@[simp] theorem State.setFlag_fault (c : Bool) : (s.setFlag c).fault = s.fault := rfl
@[simp] theorem State.setFlag_faultAddr (c : Bool) : (s.setFlag c).faultAddr = s.faultAddr := rfl
@[simp] theorem State.setFlag_faultOpcode (c : Bool) : (s.setFlag c).faultOpcode = s.faultOpcode := rfl
@[simp] theorem State.setFlag_params (c : Bool) : (s.setFlag c).params = s.params := rfl
@[simp] theorem State.setFlag_loadable (c : Bool) : (s.setFlag c).loadable = s.loadable := rfl
@[simp] theorem State.setFlag_loadFailed (c : Bool) : (s.setFlag c).loadFailed = s.loadFailed := rfl
@[simp] theorem State.setFlag_schedule (c : Bool) : (s.setFlag c).schedule = s.schedule := rfl
@[simp] theorem State.setFlag_draws (c : Bool) : (s.setFlag c).draws = s.draws := rfl
@[simp] theorem State.setFlag_byte (c : Bool) (adr : Nat) : (s.setFlag c).byte adr = s.byte adr := rfl
@[simp] theorem State.setFlag_pixel (c : Bool) (col row : Nat) : (s.setFlag c).pixel col row = s.pixel col row := rfl

/-! ### setResult -/

@[simp] theorem State.setResult_v (x : Reg) (b : Byte) (c : Bool) : (s.setResult x b c).v = (s.v.set x.toNat b x.isLt).set vF.toNat (flagByte c) vF.isLt := rfl
@[simp] theorem State.setResult_pc (x : Reg) (b : Byte) (c : Bool) : (s.setResult x b c).pc = s.pc := rfl
@[simp] theorem State.setResult_index (x : Reg) (b : Byte) (c : Bool) : (s.setResult x b c).index = s.index := rfl
@[simp] theorem State.setResult_stack (x : Reg) (b : Byte) (c : Bool) : (s.setResult x b c).stack = s.stack := rfl
@[simp] theorem State.setResult_dt (x : Reg) (b : Byte) (c : Bool) : (s.setResult x b c).dt = s.dt := rfl
@[simp] theorem State.setResult_st (x : Reg) (b : Byte) (c : Bool) : (s.setResult x b c).st = s.st := rfl
@[simp] theorem State.setResult_mem (x : Reg) (b : Byte) (c : Bool) : (s.setResult x b c).mem = s.mem := rfl
@[simp] theorem State.setResult_fb (x : Reg) (b : Byte) (c : Bool) : (s.setResult x b c).fb = s.fb := rfl
@[simp] theorem State.setResult_key (x : Reg) (b : Byte) (c : Bool) : (s.setResult x b c).key = s.key := rfl
@[simp] theorem State.setResult_quirks (x : Reg) (b : Byte) (c : Bool) : (s.setResult x b c).quirks = s.quirks := rfl
@[simp] theorem State.setResult_fault (x : Reg) (b : Byte) (c : Bool) : (s.setResult x b c).fault = s.fault := rfl
@[simp] theorem State.setResult_faultAddr (x : Reg) (b : Byte) (c : Bool) : (s.setResult x b c).faultAddr = s.faultAddr := rfl
@[simp] theorem State.setResult_faultOpcode (x : Reg) (b : Byte) (c : Bool) : (s.setResult x b c).faultOpcode = s.faultOpcode := rfl
@[simp] theorem State.setResult_params (x : Reg) (b : Byte) (c : Bool) : (s.setResult x b c).params = s.params := rfl
@[simp] theorem State.setResult_loadable (x : Reg) (b : Byte) (c : Bool) : (s.setResult x b c).loadable = s.loadable := rfl
@[simp] theorem State.setResult_loadFailed (x : Reg) (b : Byte) (c : Bool) : (s.setResult x b c).loadFailed = s.loadFailed := rfl
@[simp] theorem State.setResult_schedule (x : Reg) (b : Byte) (c : Bool) : (s.setResult x b c).schedule = s.schedule := rfl
@[simp] theorem State.setResult_draws (x : Reg) (b : Byte) (c : Bool) : (s.setResult x b c).draws = s.draws := rfl
@[simp] theorem State.setResult_byte (x : Reg) (b : Byte) (c : Bool) (adr : Nat) : (s.setResult x b c).byte adr = s.byte adr := rfl
@[simp] theorem State.setResult_pixel (x : Reg) (b : Byte) (c : Bool) (col row : Nat) : (s.setResult x b c).pixel col row = s.pixel col row := rfl

/-! ### setPc -/

@[simp] theorem State.setPc_v (t : Word) : (s.setPc t).v = s.v := rfl
@[simp] theorem State.setPc_pc (t : Word) : (s.setPc t).pc = t := rfl
@[simp] theorem State.setPc_index (t : Word) : (s.setPc t).index = s.index := rfl
@[simp] theorem State.setPc_stack (t : Word) : (s.setPc t).stack = s.stack := rfl
@[simp] theorem State.setPc_dt (t : Word) : (s.setPc t).dt = s.dt := rfl
@[simp] theorem State.setPc_st (t : Word) : (s.setPc t).st = s.st := rfl
@[simp] theorem State.setPc_mem (t : Word) : (s.setPc t).mem = s.mem := rfl
@[simp] theorem State.setPc_fb (t : Word) : (s.setPc t).fb = s.fb := rfl
@[simp] theorem State.setPc_key (t : Word) : (s.setPc t).key = s.key := rfl
@[simp] theorem State.setPc_quirks (t : Word) : (s.setPc t).quirks = s.quirks := rfl
@[simp] theorem State.setPc_fault (t : Word) : (s.setPc t).fault = s.fault := rfl
@[simp] theorem State.setPc_faultAddr (t : Word) : (s.setPc t).faultAddr = s.faultAddr := rfl
@[simp] theorem State.setPc_faultOpcode (t : Word) : (s.setPc t).faultOpcode = s.faultOpcode := rfl
@[simp] theorem State.setPc_params (t : Word) : (s.setPc t).params = s.params := rfl
@[simp] theorem State.setPc_loadable (t : Word) : (s.setPc t).loadable = s.loadable := rfl
@[simp] theorem State.setPc_loadFailed (t : Word) : (s.setPc t).loadFailed = s.loadFailed := rfl
@[simp] theorem State.setPc_schedule (t : Word) : (s.setPc t).schedule = s.schedule := rfl
@[simp] theorem State.setPc_draws (t : Word) : (s.setPc t).draws = s.draws := rfl
@[simp] theorem State.setPc_reg (t : Word) (y : Reg) : (s.setPc t).reg y = s.reg y := rfl
@[simp] theorem State.setPc_byte (t : Word) (adr : Nat) : (s.setPc t).byte adr = s.byte adr := rfl
@[simp] theorem State.setPc_pixel (t : Word) (col row : Nat) : (s.setPc t).pixel col row = s.pixel col row := rfl

/-! ### setIndex -/

@[simp] theorem State.setIndex_v (t : Word) : (s.setIndex t).v = s.v := rfl
@[simp] theorem State.setIndex_pc (t : Word) : (s.setIndex t).pc = s.pc := rfl
@[simp] theorem State.setIndex_index (t : Word) : (s.setIndex t).index = t := rfl
@[simp] theorem State.setIndex_stack (t : Word) : (s.setIndex t).stack = s.stack := rfl
@[simp] theorem State.setIndex_dt (t : Word) : (s.setIndex t).dt = s.dt := rfl
@[simp] theorem State.setIndex_st (t : Word) : (s.setIndex t).st = s.st := rfl
@[simp] theorem State.setIndex_mem (t : Word) : (s.setIndex t).mem = s.mem := rfl
@[simp] theorem State.setIndex_fb (t : Word) : (s.setIndex t).fb = s.fb := rfl
@[simp] theorem State.setIndex_key (t : Word) : (s.setIndex t).key = s.key := rfl
@[simp] theorem State.setIndex_quirks (t : Word) : (s.setIndex t).quirks = s.quirks := rfl
@[simp] theorem State.setIndex_fault (t : Word) : (s.setIndex t).fault = s.fault := rfl
@[simp] theorem State.setIndex_faultAddr (t : Word) : (s.setIndex t).faultAddr = s.faultAddr := rfl
@[simp] theorem State.setIndex_faultOpcode (t : Word) : (s.setIndex t).faultOpcode = s.faultOpcode := rfl
@[simp] theorem State.setIndex_params (t : Word) : (s.setIndex t).params = s.params := rfl
@[simp] theorem State.setIndex_loadable (t : Word) : (s.setIndex t).loadable = s.loadable := rfl
@[simp] theorem State.setIndex_loadFailed (t : Word) : (s.setIndex t).loadFailed = s.loadFailed := rfl
@[simp] theorem State.setIndex_schedule (t : Word) : (s.setIndex t).schedule = s.schedule := rfl
@[simp] theorem State.setIndex_draws (t : Word) : (s.setIndex t).draws = s.draws := rfl
@[simp] theorem State.setIndex_reg (t : Word) (y : Reg) : (s.setIndex t).reg y = s.reg y := rfl
@[simp] theorem State.setIndex_byte (t : Word) (adr : Nat) : (s.setIndex t).byte adr = s.byte adr := rfl
@[simp] theorem State.setIndex_pixel (t : Word) (col row : Nat) : (s.setIndex t).pixel col row = s.pixel col row := rfl

/-! ### setDt -/

@[simp] theorem State.setDt_v (b : Byte) : (s.setDt b).v = s.v := rfl
@[simp] theorem State.setDt_pc (b : Byte) : (s.setDt b).pc = s.pc := rfl
@[simp] theorem State.setDt_index (b : Byte) : (s.setDt b).index = s.index := rfl
@[simp] theorem State.setDt_stack (b : Byte) : (s.setDt b).stack = s.stack := rfl
@[simp] theorem State.setDt_dt (b : Byte) : (s.setDt b).dt = b := rfl
@[simp] theorem State.setDt_st (b : Byte) : (s.setDt b).st = s.st := rfl
@[simp] theorem State.setDt_mem (b : Byte) : (s.setDt b).mem = s.mem := rfl
@[simp] theorem State.setDt_fb (b : Byte) : (s.setDt b).fb = s.fb := rfl
@[simp] theorem State.setDt_key (b : Byte) : (s.setDt b).key = s.key := rfl
@[simp] theorem State.setDt_quirks (b : Byte) : (s.setDt b).quirks = s.quirks := rfl
@[simp] theorem State.setDt_fault (b : Byte) : (s.setDt b).fault = s.fault := rfl
@[simp] theorem State.setDt_faultAddr (b : Byte) : (s.setDt b).faultAddr = s.faultAddr := rfl
@[simp] theorem State.setDt_faultOpcode (b : Byte) : (s.setDt b).faultOpcode = s.faultOpcode := rfl
@[simp] theorem State.setDt_params (b : Byte) : (s.setDt b).params = s.params := rfl
@[simp] theorem State.setDt_loadable (b : Byte) : (s.setDt b).loadable = s.loadable := rfl
@[simp] theorem State.setDt_loadFailed (b : Byte) : (s.setDt b).loadFailed = s.loadFailed := rfl
@[simp] theorem State.setDt_schedule (b : Byte) : (s.setDt b).schedule = s.schedule := rfl
@[simp] theorem State.setDt_draws (b : Byte) : (s.setDt b).draws = s.draws := rfl
@[simp] theorem State.setDt_reg (b : Byte) (y : Reg) : (s.setDt b).reg y = s.reg y := rfl
@[simp] theorem State.setDt_byte (b : Byte) (adr : Nat) : (s.setDt b).byte adr = s.byte adr := rfl
@[simp] theorem State.setDt_pixel (b : Byte) (col row : Nat) : (s.setDt b).pixel col row = s.pixel col row := rfl

/-! ### setSt -/

@[simp] theorem State.setSt_v (b : Byte) : (s.setSt b).v = s.v := rfl
@[simp] theorem State.setSt_pc (b : Byte) : (s.setSt b).pc = s.pc := rfl
@[simp] theorem State.setSt_index (b : Byte) : (s.setSt b).index = s.index := rfl
@[simp] theorem State.setSt_stack (b : Byte) : (s.setSt b).stack = s.stack := rfl
@[simp] theorem State.setSt_dt (b : Byte) : (s.setSt b).dt = s.dt := rfl
@[simp] theorem State.setSt_st (b : Byte) : (s.setSt b).st = b := rfl
@[simp] theorem State.setSt_mem (b : Byte) : (s.setSt b).mem = s.mem := rfl
@[simp] theorem State.setSt_fb (b : Byte) : (s.setSt b).fb = s.fb := rfl
@[simp] theorem State.setSt_key (b : Byte) : (s.setSt b).key = s.key := rfl
@[simp] theorem State.setSt_quirks (b : Byte) : (s.setSt b).quirks = s.quirks := rfl
@[simp] theorem State.setSt_fault (b : Byte) : (s.setSt b).fault = s.fault := rfl
@[simp] theorem State.setSt_faultAddr (b : Byte) : (s.setSt b).faultAddr = s.faultAddr := rfl
@[simp] theorem State.setSt_faultOpcode (b : Byte) : (s.setSt b).faultOpcode = s.faultOpcode := rfl
@[simp] theorem State.setSt_params (b : Byte) : (s.setSt b).params = s.params := rfl
@[simp] theorem State.setSt_loadable (b : Byte) : (s.setSt b).loadable = s.loadable := rfl
@[simp] theorem State.setSt_loadFailed (b : Byte) : (s.setSt b).loadFailed = s.loadFailed := rfl
@[simp] theorem State.setSt_schedule (b : Byte) : (s.setSt b).schedule = s.schedule := rfl
@[simp] theorem State.setSt_draws (b : Byte) : (s.setSt b).draws = s.draws := rfl
@[simp] theorem State.setSt_reg (b : Byte) (y : Reg) : (s.setSt b).reg y = s.reg y := rfl
@[simp] theorem State.setSt_byte (b : Byte) (adr : Nat) : (s.setSt b).byte adr = s.byte adr := rfl
@[simp] theorem State.setSt_pixel (b : Byte) (col row : Nat) : (s.setSt b).pixel col row = s.pixel col row := rfl

/-! ### drawn -/

@[simp] theorem State.drawn_v : (s.drawn).v = s.v := rfl
@[simp] theorem State.drawn_pc : (s.drawn).pc = s.pc := rfl
@[simp] theorem State.drawn_index : (s.drawn).index = s.index := rfl
@[simp] theorem State.drawn_stack : (s.drawn).stack = s.stack := rfl
@[simp] theorem State.drawn_dt : (s.drawn).dt = s.dt := rfl
@[simp] theorem State.drawn_st : (s.drawn).st = s.st := rfl
@[simp] theorem State.drawn_mem : (s.drawn).mem = s.mem := rfl
@[simp] theorem State.drawn_fb : (s.drawn).fb = s.fb := rfl
@[simp] theorem State.drawn_key : (s.drawn).key = s.key := rfl
@[simp] theorem State.drawn_quirks : (s.drawn).quirks = s.quirks := rfl
@[simp] theorem State.drawn_fault : (s.drawn).fault = s.fault := rfl
@[simp] theorem State.drawn_faultAddr : (s.drawn).faultAddr = s.faultAddr := rfl
@[simp] theorem State.drawn_faultOpcode : (s.drawn).faultOpcode = s.faultOpcode := rfl
@[simp] theorem State.drawn_params : (s.drawn).params = s.params := rfl
@[simp] theorem State.drawn_loadable : (s.drawn).loadable = s.loadable := rfl
@[simp] theorem State.drawn_loadFailed : (s.drawn).loadFailed = s.loadFailed := rfl
@[simp] theorem State.drawn_schedule : (s.drawn).schedule = s.schedule := rfl
@[simp] theorem State.drawn_draws : (s.drawn).draws = s.draws + 1 := rfl
@[simp] theorem State.drawn_reg (y : Reg) : (s.drawn).reg y = s.reg y := rfl
@[simp] theorem State.drawn_byte (adr : Nat) : (s.drawn).byte adr = s.byte adr := rfl
@[simp] theorem State.drawn_pixel (col row : Nat) : (s.drawn).pixel col row = s.pixel col row := rfl

/-! ### setFb -/

@[simp] theorem State.setFb_v (g : Framebuffer) : (s.setFb g).v = s.v := rfl
@[simp] theorem State.setFb_pc (g : Framebuffer) : (s.setFb g).pc = s.pc := rfl
@[simp] theorem State.setFb_index (g : Framebuffer) : (s.setFb g).index = s.index := rfl
@[simp] theorem State.setFb_stack (g : Framebuffer) : (s.setFb g).stack = s.stack := rfl
@[simp] theorem State.setFb_dt (g : Framebuffer) : (s.setFb g).dt = s.dt := rfl
@[simp] theorem State.setFb_st (g : Framebuffer) : (s.setFb g).st = s.st := rfl
@[simp] theorem State.setFb_mem (g : Framebuffer) : (s.setFb g).mem = s.mem := rfl
@[simp] theorem State.setFb_fb (g : Framebuffer) : (s.setFb g).fb = g := rfl
@[simp] theorem State.setFb_key (g : Framebuffer) : (s.setFb g).key = s.key := rfl
@[simp] theorem State.setFb_quirks (g : Framebuffer) : (s.setFb g).quirks = s.quirks := rfl
@[simp] theorem State.setFb_fault (g : Framebuffer) : (s.setFb g).fault = s.fault := rfl
@[simp] theorem State.setFb_faultAddr (g : Framebuffer) : (s.setFb g).faultAddr = s.faultAddr := rfl
@[simp] theorem State.setFb_faultOpcode (g : Framebuffer) : (s.setFb g).faultOpcode = s.faultOpcode := rfl
@[simp] theorem State.setFb_params (g : Framebuffer) : (s.setFb g).params = s.params := rfl
@[simp] theorem State.setFb_loadable (g : Framebuffer) : (s.setFb g).loadable = s.loadable := rfl
@[simp] theorem State.setFb_loadFailed (g : Framebuffer) : (s.setFb g).loadFailed = s.loadFailed := rfl
@[simp] theorem State.setFb_schedule (g : Framebuffer) : (s.setFb g).schedule = s.schedule := rfl
@[simp] theorem State.setFb_draws (g : Framebuffer) : (s.setFb g).draws = s.draws := rfl
@[simp] theorem State.setFb_reg (g : Framebuffer) (y : Reg) : (s.setFb g).reg y = s.reg y := rfl
@[simp] theorem State.setFb_byte (g : Framebuffer) (adr : Nat) : (s.setFb g).byte adr = s.byte adr := rfl

/-! ### raise -/

@[simp] theorem State.raise_v (f : FaultKind) (a op : Word) : (s.raise f a op).v = s.v := rfl
@[simp] theorem State.raise_pc (f : FaultKind) (a op : Word) : (s.raise f a op).pc = s.pc := rfl
@[simp] theorem State.raise_index (f : FaultKind) (a op : Word) : (s.raise f a op).index = s.index := rfl
@[simp] theorem State.raise_stack (f : FaultKind) (a op : Word) : (s.raise f a op).stack = s.stack := rfl
@[simp] theorem State.raise_dt (f : FaultKind) (a op : Word) : (s.raise f a op).dt = s.dt := rfl
@[simp] theorem State.raise_st (f : FaultKind) (a op : Word) : (s.raise f a op).st = s.st := rfl
@[simp] theorem State.raise_mem (f : FaultKind) (a op : Word) : (s.raise f a op).mem = s.mem := rfl
@[simp] theorem State.raise_fb (f : FaultKind) (a op : Word) : (s.raise f a op).fb = s.fb := rfl
@[simp] theorem State.raise_key (f : FaultKind) (a op : Word) : (s.raise f a op).key = s.key := rfl
@[simp] theorem State.raise_quirks (f : FaultKind) (a op : Word) : (s.raise f a op).quirks = s.quirks := rfl
@[simp] theorem State.raise_fault (f : FaultKind) (a op : Word) : (s.raise f a op).fault = some f := rfl
@[simp] theorem State.raise_faultAddr (f : FaultKind) (a op : Word) : (s.raise f a op).faultAddr = a := rfl
@[simp] theorem State.raise_faultOpcode (f : FaultKind) (a op : Word) : (s.raise f a op).faultOpcode = op := rfl
@[simp] theorem State.raise_params (f : FaultKind) (a op : Word) : (s.raise f a op).params = s.params := rfl
@[simp] theorem State.raise_loadable (f : FaultKind) (a op : Word) : (s.raise f a op).loadable = s.loadable := rfl
@[simp] theorem State.raise_loadFailed (f : FaultKind) (a op : Word) : (s.raise f a op).loadFailed = s.loadFailed := rfl
@[simp] theorem State.raise_schedule (f : FaultKind) (a op : Word) : (s.raise f a op).schedule = s.schedule := rfl
@[simp] theorem State.raise_draws (f : FaultKind) (a op : Word) : (s.raise f a op).draws = s.draws := rfl
@[simp] theorem State.raise_reg (f : FaultKind) (a op : Word) (y : Reg) : (s.raise f a op).reg y = s.reg y := rfl
@[simp] theorem State.raise_byte (f : FaultKind) (a op : Word) (adr : Nat) : (s.raise f a op).byte adr = s.byte adr := rfl
@[simp] theorem State.raise_pixel (f : FaultKind) (a op : Word) (col row : Nat) : (s.raise f a op).pixel col row = s.pixel col row := rfl

/-! ### raiseIn -/

@[simp] theorem State.raiseIn_v (f : FaultKind) (i : Instr) : (s.raiseIn f i).v = s.v := rfl
@[simp] theorem State.raiseIn_pc (f : FaultKind) (i : Instr) : (s.raiseIn f i).pc = s.pc := rfl
@[simp] theorem State.raiseIn_index (f : FaultKind) (i : Instr) : (s.raiseIn f i).index = s.index := rfl
@[simp] theorem State.raiseIn_stack (f : FaultKind) (i : Instr) : (s.raiseIn f i).stack = s.stack := rfl
@[simp] theorem State.raiseIn_dt (f : FaultKind) (i : Instr) : (s.raiseIn f i).dt = s.dt := rfl
@[simp] theorem State.raiseIn_st (f : FaultKind) (i : Instr) : (s.raiseIn f i).st = s.st := rfl
@[simp] theorem State.raiseIn_mem (f : FaultKind) (i : Instr) : (s.raiseIn f i).mem = s.mem := rfl
@[simp] theorem State.raiseIn_fb (f : FaultKind) (i : Instr) : (s.raiseIn f i).fb = s.fb := rfl
@[simp] theorem State.raiseIn_key (f : FaultKind) (i : Instr) : (s.raiseIn f i).key = s.key := rfl
@[simp] theorem State.raiseIn_quirks (f : FaultKind) (i : Instr) : (s.raiseIn f i).quirks = s.quirks := rfl
@[simp] theorem State.raiseIn_fault (f : FaultKind) (i : Instr) : (s.raiseIn f i).fault = some f := rfl
@[simp] theorem State.raiseIn_faultAddr (f : FaultKind) (i : Instr) : (s.raiseIn f i).faultAddr = s.pc - 2 := rfl
@[simp] theorem State.raiseIn_faultOpcode (f : FaultKind) (i : Instr) : (s.raiseIn f i).faultOpcode = encodeWord i := rfl
@[simp] theorem State.raiseIn_params (f : FaultKind) (i : Instr) : (s.raiseIn f i).params = s.params := rfl
@[simp] theorem State.raiseIn_loadable (f : FaultKind) (i : Instr) : (s.raiseIn f i).loadable = s.loadable := rfl
@[simp] theorem State.raiseIn_loadFailed (f : FaultKind) (i : Instr) : (s.raiseIn f i).loadFailed = s.loadFailed := rfl
@[simp] theorem State.raiseIn_schedule (f : FaultKind) (i : Instr) : (s.raiseIn f i).schedule = s.schedule := rfl
@[simp] theorem State.raiseIn_draws (f : FaultKind) (i : Instr) : (s.raiseIn f i).draws = s.draws := rfl
@[simp] theorem State.raiseIn_reg (f : FaultKind) (i : Instr) (y : Reg) : (s.raiseIn f i).reg y = s.reg y := rfl
@[simp] theorem State.raiseIn_byte (f : FaultKind) (i : Instr) (adr : Nat) : (s.raiseIn f i).byte adr = s.byte adr := rfl
@[simp] theorem State.raiseIn_pixel (f : FaultKind) (i : Instr) (col row : Nat) : (s.raiseIn f i).pixel col row = s.pixel col row := rfl

/-! ### tick -/

@[simp] theorem State.tick_v : (s.tick).v = s.v := rfl
@[simp] theorem State.tick_pc : (s.tick).pc = s.pc := rfl
@[simp] theorem State.tick_index : (s.tick).index = s.index := rfl
@[simp] theorem State.tick_stack : (s.tick).stack = s.stack := rfl
@[simp] theorem State.tick_dt : (s.tick).dt = countDown s.dt := rfl
@[simp] theorem State.tick_st : (s.tick).st = countDown s.st := rfl
@[simp] theorem State.tick_mem : (s.tick).mem = s.mem := rfl
@[simp] theorem State.tick_fb : (s.tick).fb = s.fb := rfl
@[simp] theorem State.tick_key : (s.tick).key = s.key := rfl
@[simp] theorem State.tick_quirks : (s.tick).quirks = s.quirks := rfl
@[simp] theorem State.tick_fault : (s.tick).fault = s.fault := rfl
@[simp] theorem State.tick_faultAddr : (s.tick).faultAddr = s.faultAddr := rfl
@[simp] theorem State.tick_faultOpcode : (s.tick).faultOpcode = s.faultOpcode := rfl
@[simp] theorem State.tick_params : (s.tick).params = s.params := rfl
@[simp] theorem State.tick_loadable : (s.tick).loadable = s.loadable := rfl
@[simp] theorem State.tick_loadFailed : (s.tick).loadFailed = s.loadFailed := rfl
@[simp] theorem State.tick_schedule : (s.tick).schedule = s.schedule := rfl
@[simp] theorem State.tick_draws : (s.tick).draws = s.draws := rfl
@[simp] theorem State.tick_reg (y : Reg) : (s.tick).reg y = s.reg y := rfl
@[simp] theorem State.tick_byte (adr : Nat) : (s.tick).byte adr = s.byte adr := rfl
@[simp] theorem State.tick_pixel (col row : Nat) : (s.tick).pixel col row = s.pixel col row := rfl

/-! ### setKey -/

@[simp] theorem State.setKey_v (k : Option Key) : (s.setKey k).v = s.v := rfl
@[simp] theorem State.setKey_pc (k : Option Key) : (s.setKey k).pc = s.pc := rfl
@[simp] theorem State.setKey_index (k : Option Key) : (s.setKey k).index = s.index := rfl
@[simp] theorem State.setKey_stack (k : Option Key) : (s.setKey k).stack = s.stack := rfl
@[simp] theorem State.setKey_dt (k : Option Key) : (s.setKey k).dt = s.dt := rfl
@[simp] theorem State.setKey_st (k : Option Key) : (s.setKey k).st = s.st := rfl
@[simp] theorem State.setKey_mem (k : Option Key) : (s.setKey k).mem = s.mem := rfl
@[simp] theorem State.setKey_fb (k : Option Key) : (s.setKey k).fb = s.fb := rfl
@[simp] theorem State.setKey_key (k : Option Key) : (s.setKey k).key = k := rfl
@[simp] theorem State.setKey_quirks (k : Option Key) : (s.setKey k).quirks = s.quirks := rfl
@[simp] theorem State.setKey_fault (k : Option Key) : (s.setKey k).fault = s.fault := rfl
@[simp] theorem State.setKey_faultAddr (k : Option Key) : (s.setKey k).faultAddr = s.faultAddr := rfl
@[simp] theorem State.setKey_faultOpcode (k : Option Key) : (s.setKey k).faultOpcode = s.faultOpcode := rfl
@[simp] theorem State.setKey_params (k : Option Key) : (s.setKey k).params = s.params := rfl
@[simp] theorem State.setKey_loadable (k : Option Key) : (s.setKey k).loadable = s.loadable := rfl
@[simp] theorem State.setKey_loadFailed (k : Option Key) : (s.setKey k).loadFailed = s.loadFailed := rfl
@[simp] theorem State.setKey_schedule (k : Option Key) : (s.setKey k).schedule = s.schedule := rfl
@[simp] theorem State.setKey_draws (k : Option Key) : (s.setKey k).draws = s.draws := rfl
@[simp] theorem State.setKey_reg (k : Option Key) (y : Reg) : (s.setKey k).reg y = s.reg y := rfl
@[simp] theorem State.setKey_byte (k : Option Key) (adr : Nat) : (s.setKey k).byte adr = s.byte adr := rfl
@[simp] theorem State.setKey_pixel (k : Option Key) (col row : Nat) : (s.setKey k).pixel col row = s.pixel col row := rfl

/-! ### failLoad -/

@[simp] theorem State.failLoad_v : (s.failLoad).v = s.v := rfl
@[simp] theorem State.failLoad_pc : (s.failLoad).pc = s.pc := rfl
@[simp] theorem State.failLoad_index : (s.failLoad).index = s.index := rfl
@[simp] theorem State.failLoad_stack : (s.failLoad).stack = s.stack := rfl
@[simp] theorem State.failLoad_dt : (s.failLoad).dt = s.dt := rfl
@[simp] theorem State.failLoad_st : (s.failLoad).st = s.st := rfl
@[simp] theorem State.failLoad_mem : (s.failLoad).mem = s.mem := rfl
@[simp] theorem State.failLoad_fb : (s.failLoad).fb = s.fb := rfl
@[simp] theorem State.failLoad_key : (s.failLoad).key = s.key := rfl
@[simp] theorem State.failLoad_quirks : (s.failLoad).quirks = s.quirks := rfl
@[simp] theorem State.failLoad_fault : (s.failLoad).fault = s.fault := rfl
@[simp] theorem State.failLoad_faultAddr : (s.failLoad).faultAddr = s.faultAddr := rfl
@[simp] theorem State.failLoad_faultOpcode : (s.failLoad).faultOpcode = s.faultOpcode := rfl
@[simp] theorem State.failLoad_params : (s.failLoad).params = s.params := rfl
@[simp] theorem State.failLoad_loadable : (s.failLoad).loadable = false := rfl
@[simp] theorem State.failLoad_loadFailed : (s.failLoad).loadFailed = true := rfl
@[simp] theorem State.failLoad_schedule : (s.failLoad).schedule = s.schedule := rfl
@[simp] theorem State.failLoad_draws : (s.failLoad).draws = s.draws := rfl
@[simp] theorem State.failLoad_reg (y : Reg) : (s.failLoad).reg y = s.reg y := rfl
@[simp] theorem State.failLoad_byte (adr : Nat) : (s.failLoad).byte adr = s.byte adr := rfl
@[simp] theorem State.failLoad_pixel (col row : Nat) : (s.failLoad).pixel col row = s.pixel col row := rfl

/-! ### withImage -/

@[simp] theorem State.withImage_v (image : List Byte) : (s.withImage image).v = s.v := rfl
@[simp] theorem State.withImage_pc (image : List Byte) : (s.withImage image).pc = s.pc := rfl
@[simp] theorem State.withImage_index (image : List Byte) : (s.withImage image).index = s.index := rfl
@[simp] theorem State.withImage_stack (image : List Byte) : (s.withImage image).stack = s.stack := rfl
@[simp] theorem State.withImage_dt (image : List Byte) : (s.withImage image).dt = s.dt := rfl
@[simp] theorem State.withImage_st (image : List Byte) : (s.withImage image).st = s.st := rfl
@[simp] theorem State.withImage_mem (image : List Byte) : (s.withImage image).mem = Memory.writeAll s.params.fontRom s.mem progBase image := rfl
@[simp] theorem State.withImage_fb (image : List Byte) : (s.withImage image).fb = s.fb := rfl
@[simp] theorem State.withImage_key (image : List Byte) : (s.withImage image).key = s.key := rfl
@[simp] theorem State.withImage_quirks (image : List Byte) : (s.withImage image).quirks = s.quirks := rfl
@[simp] theorem State.withImage_fault (image : List Byte) : (s.withImage image).fault = s.fault := rfl
@[simp] theorem State.withImage_faultAddr (image : List Byte) : (s.withImage image).faultAddr = s.faultAddr := rfl
@[simp] theorem State.withImage_faultOpcode (image : List Byte) : (s.withImage image).faultOpcode = s.faultOpcode := rfl
@[simp] theorem State.withImage_params (image : List Byte) : (s.withImage image).params = s.params := rfl
@[simp] theorem State.withImage_loadable (image : List Byte) : (s.withImage image).loadable = false := rfl
@[simp] theorem State.withImage_loadFailed (image : List Byte) : (s.withImage image).loadFailed = s.loadFailed := rfl
@[simp] theorem State.withImage_schedule (image : List Byte) : (s.withImage image).schedule = s.schedule := rfl
@[simp] theorem State.withImage_draws (image : List Byte) : (s.withImage image).draws = s.draws := rfl
@[simp] theorem State.withImage_reg (image : List Byte) (y : Reg) : (s.withImage image).reg y = s.reg y := rfl
@[simp] theorem State.withImage_pixel (image : List Byte) (col row : Nat) : (s.withImage image).pixel col row = s.pixel col row := rfl

/-! ### started -/

@[simp] theorem State.started_v : (s.started).v = s.v := rfl
@[simp] theorem State.started_pc : (s.started).pc = s.pc := rfl
@[simp] theorem State.started_index : (s.started).index = s.index := rfl
@[simp] theorem State.started_stack : (s.started).stack = s.stack := rfl
@[simp] theorem State.started_dt : (s.started).dt = s.dt := rfl
@[simp] theorem State.started_st : (s.started).st = s.st := rfl
@[simp] theorem State.started_mem : (s.started).mem = s.mem := rfl
@[simp] theorem State.started_fb : (s.started).fb = s.fb := rfl
@[simp] theorem State.started_key : (s.started).key = s.key := rfl
@[simp] theorem State.started_quirks : (s.started).quirks = s.quirks := rfl
@[simp] theorem State.started_fault : (s.started).fault = s.fault := rfl
@[simp] theorem State.started_faultAddr : (s.started).faultAddr = s.faultAddr := rfl
@[simp] theorem State.started_faultOpcode : (s.started).faultOpcode = s.faultOpcode := rfl
@[simp] theorem State.started_params : (s.started).params = s.params := rfl
@[simp] theorem State.started_loadable : (s.started).loadable = false := rfl
@[simp] theorem State.started_loadFailed : (s.started).loadFailed = s.loadFailed := rfl
@[simp] theorem State.started_schedule : (s.started).schedule = s.schedule := rfl
@[simp] theorem State.started_draws : (s.started).draws = s.draws := rfl
@[simp] theorem State.started_reg (y : Reg) : (s.started).reg y = s.reg y := rfl
@[simp] theorem State.started_byte (adr : Nat) : (s.started).byte adr = s.byte adr := rfl
@[simp] theorem State.started_pixel (col row : Nat) : (s.started).pixel col row = s.pixel col row := rfl

/-! ### moveTaken -/

@[simp] theorem State.moveTaken_v : (s.moveTaken).v = s.v := rfl
@[simp] theorem State.moveTaken_pc : (s.moveTaken).pc = s.pc := rfl
@[simp] theorem State.moveTaken_index : (s.moveTaken).index = s.index := rfl
@[simp] theorem State.moveTaken_stack : (s.moveTaken).stack = s.stack := rfl
@[simp] theorem State.moveTaken_dt : (s.moveTaken).dt = s.dt := rfl
@[simp] theorem State.moveTaken_st : (s.moveTaken).st = s.st := rfl
@[simp] theorem State.moveTaken_mem : (s.moveTaken).mem = s.mem := rfl
@[simp] theorem State.moveTaken_fb : (s.moveTaken).fb = s.fb := rfl
@[simp] theorem State.moveTaken_key : (s.moveTaken).key = s.key := rfl
@[simp] theorem State.moveTaken_quirks : (s.moveTaken).quirks = s.quirks := rfl
@[simp] theorem State.moveTaken_fault : (s.moveTaken).fault = s.fault := rfl
@[simp] theorem State.moveTaken_faultAddr : (s.moveTaken).faultAddr = s.faultAddr := rfl
@[simp] theorem State.moveTaken_faultOpcode : (s.moveTaken).faultOpcode = s.faultOpcode := rfl
@[simp] theorem State.moveTaken_params : (s.moveTaken).params = s.params := rfl
@[simp] theorem State.moveTaken_loadable : (s.moveTaken).loadable = s.loadable := rfl
@[simp] theorem State.moveTaken_loadFailed : (s.moveTaken).loadFailed = s.loadFailed := rfl
@[simp] theorem State.moveTaken_schedule : (s.moveTaken).schedule = s.schedule.tail := rfl
@[simp] theorem State.moveTaken_draws : (s.moveTaken).draws = s.draws := rfl
@[simp] theorem State.moveTaken_reg (y : Reg) : (s.moveTaken).reg y = s.reg y := rfl
@[simp] theorem State.moveTaken_byte (adr : Nat) : (s.moveTaken).byte adr = s.byte adr := rfl
@[simp] theorem State.moveTaken_pixel (col row : Nat) : (s.moveTaken).pixel col row = s.pixel col row := rfl

/-- A skip changes `pc` and nothing else. -/
theorem State.skipIf_eq (c : Bool) : s.skipIf c = s.setPc (if c then s.pc + 2 else s.pc) := by
  cases c <;> rfl

end Sys2Proof.Machine
end

