-- ==== Sys2Proof/Laws/Display.lean ====
section
/-!
SUPPORT. Laws/Display.lean: what drawing does to each cell and to the collision.
-/
namespace Sys2Proof.Machine

/-- Turning over a cell of the grid turns over that cell and no other. -/
theorem Framebuffer.cell_flip (fb : Framebuffer) (x y i j : Nat) (hx : x < 64) (hy : y < 32) :
    Framebuffer.cell (Framebuffer.flip fb x y) i j =
      (if i = x ∧ j = y then !Framebuffer.cell fb x y else Framebuffer.cell fb i j) := by
  have hrow : fb[y]? = some fb[y] := Vector.getElem?_eq_getElem hy
  simp only [Framebuffer.flip, hrow]
  by_cases hj : j = y
  · subst hj
    have hc : Framebuffer.cell fb i j = ((fb[j])[i]?).getD false := by simp [Framebuffer.cell, hrow]
    unfold Framebuffer.cell
    rw [Vector.getElem?_setIfInBounds]
    by_cases hi : i = x
    · subst hi
      simp [hy, hx]
    · simp [hy, hi, Ne.symm hi]
  · have : y ≠ j := Ne.symm hj
    simp [Framebuffer.cell, this, hj]

/-- Outside the grid every cell reads false. -/
theorem Framebuffer.cell_outside (fb : Framebuffer) {x y : Nat} (h : 64 ≤ x ∨ 32 ≤ y) :
    Framebuffer.cell fb x y = false := by
  unfold Framebuffer.cell
  by_cases hy : y < 32
  · have hx : 64 ≤ x := by omega
    simp [hy, hx]
  · simp [hy]

/-- Two framebuffers with the same cells are the same. -/
theorem Framebuffer.ext_cell {f g : Framebuffer}
    (h : ∀ x y, x < 64 → y < 32 → Framebuffer.cell f x y = Framebuffer.cell g x y) : f = g := by
  apply Vector.ext
  intro y hy
  apply Vector.ext
  intro x hx
  simpa [Framebuffer.cell, hx, hy] using h x y hx hy

/-- One sprite bit changes its own cell only, and only where the cell is in the grid. -/
theorem cell_plot (x y i j : Nat) (c : Canvas) :
    Framebuffer.cell (plot x y c).fb i j =
      (Framebuffer.cell c.fb i j ^^ decide (x < 64 ∧ y < 32 ∧ i = x ∧ j = y)) := by
  unfold plot
  split
  · next h =>
    rw [Framebuffer.cell_flip c.fb x y i j h.1 h.2]
    by_cases e : i = x ∧ j = y
    · obtain ⟨rfl, rfl⟩ := e
      simp only [fbWidth, fbHeight] at h
      simp [h]
    · simp [e]
  · next h =>
    have : ¬ (x < 64 ∧ y < 32 ∧ i = x ∧ j = y) := fun g => h ⟨g.1, g.2.1⟩
    simp [this]

/-- One sprite bit collides exactly where its cell is in the grid and set. -/
theorem hit_plot (x y : Nat) (c : Canvas) : (plot x y c).hit = (c.hit || Framebuffer.cell c.fb x y) := by
  unfold plot
  split
  · rfl
  · next h =>
    rw [Framebuffer.cell_outside c.fb (x := x) (y := y) (by simp only [fbWidth, fbHeight] at h; omega)]
    simp

/-- The columns of one sprite row: each column listed lands on its own cell. -/
theorem cell_drawCols (x0 y i j : Nat) (b : Byte) (cs : List Nat) (hcs : cs.Nodup) (c : Canvas) :
    Framebuffer.cell (drawCols x0 y b cs c).fb i j =
      (Framebuffer.cell c.fb i j ^^
        decide (i < 64 ∧ j < 32 ∧ j = y ∧ x0 ≤ i ∧ i - x0 ∈ cs ∧ b.getLsbD (7 - (i - x0)) = true)) := by
  induction cs generalizing c with
  | nil => simp [drawCols]
  | cons k ks ih =>
    obtain ⟨hk, hks⟩ := List.nodup_cons.mp hcs
    rw [drawCols, ih hks]
    by_cases hb : b.getLsbD (7 - k) = true
    · rw [if_pos hb, cell_plot, Bool.xor_assoc]
      congr 1
      by_cases hi : i - x0 = k ∧ x0 ≤ i
      · obtain ⟨rfl, hle⟩ := hi
        have e : x0 + (i - x0) = i := by omega
        by_cases hj : j = y
        · subst hj
          simp [hk, hb, e, hle]
        · simp [hj]
      · have h1 : ¬ (i = x0 + k) := by omega
        by_cases hle : x0 ≤ i
        · have h2 : ¬ (i - x0 = k) := fun h => hi ⟨h, hle⟩
          simp [h1, h2]
        · simp [h1, hle]
    · rw [if_neg hb]
      congr 1
      by_cases hk' : i - x0 = k
      · rw [← hk'] at hb hk
        simp [hk, hb]
      · simp [hk']

/-- The collision of one sprite row: it is reported where one of the columns listed is set in the sprite and its cell was
set before the row. -/
theorem hit_drawCols (x0 y : Nat) (b : Byte) (cs : List Nat) (hcs : cs.Nodup) (c : Canvas) :
    (drawCols x0 y b cs c).hit =
      (c.hit || cs.any (fun k => b.getLsbD (7 - k) && Framebuffer.cell c.fb (x0 + k) y)) := by
  induction cs generalizing c with
  | nil => simp [drawCols]
  | cons k ks ih =>
    obtain ⟨hk, hks⟩ := List.nodup_cons.mp hcs
    rw [drawCols, ih hks, List.any_cons]
    by_cases hb : b.getLsbD (7 - k) = true
    · have other : ∀ m ∈ ks, Framebuffer.cell (plot (x0 + k) y c).fb (x0 + m) y = Framebuffer.cell c.fb (x0 + m) y := by
        intro m hm
        have hne : m ≠ k := fun e => hk (e ▸ hm)
        simp [cell_plot, hne]
      rw [if_pos hb, hit_plot, Bool.or_assoc, hb, Bool.true_and]
      congr 2
      rw [Bool.eq_iff_iff]
      simp only [List.any_eq_true]
      constructor <;> rintro ⟨m, hm, h⟩ <;> exact ⟨m, hm, by simpa [other m hm] using h⟩
    · simp [hb]

/-- The rows of a sprite: a cell is turned over exactly where a sprite bit of 1 lands on it inside the grid
(44_display.md R181, R182). -/
theorem cell_drawRows (x0 y i j : Nat) (bs : List Byte) (c : Canvas) :
    Framebuffer.cell (drawRows x0 y bs c).fb i j =
      (Framebuffer.cell c.fb i j ^^ (decide (i < 64 ∧ j < 32 ∧ x0 ≤ i ∧ i - x0 < 8 ∧ y ≤ j) &&
        ((bs[j - y]?).getD 0).getLsbD (7 - (i - x0)))) := by
  induction bs generalizing y c with
  | nil => simp [drawRows]
  | cons b bs ih =>
    rw [drawRows, ih, cell_drawCols _ _ _ _ _ _ List.nodup_range, Bool.xor_assoc]
    congr 1
    by_cases hj : j = y
    · subst hj
      have h : ¬ j + 1 ≤ j := by omega
      simp only [h, and_false, decide_false, Bool.false_and, Bool.xor_false, List.mem_range, Nat.sub_self,
        List.getElem?_cons_zero, Option.getD_some, true_and, Nat.le_refl, and_true]
      by_cases hb : b.getLsbD (7 - (i - x0)) = true <;> simp [hb]
    · by_cases hle : y ≤ j
      · have e : j - y = j - (y + 1) + 1 := by omega
        have hle' : y + 1 ≤ j := by omega
        simp [hj, hle, hle', e]
      · have hle' : ¬ y + 1 ≤ j := by omega
        simp [hj, hle, hle']

/-- The collision of a sprite: reported exactly where a sprite bit of 1 lands on a cell that was set before the draw
(44_display.md R182). A clipped bit meets no set cell. -/
theorem hit_drawRows (x0 y : Nat) (bs : List Byte) (c : Canvas) :
    (drawRows x0 y bs c).hit = true ↔
      c.hit = true ∨ ∃ r k, k < 8 ∧ ((bs[r]?).getD 0).getLsbD (7 - k) = true ∧
        Framebuffer.cell c.fb (x0 + k) (y + r) = true := by
  induction bs generalizing y c with
  | nil => simp [drawRows]
  | cons b bs ih =>
    have later : ∀ k r, Framebuffer.cell (drawCols x0 y b (List.range 8) c).fb (x0 + k) (y + 1 + r) =
        Framebuffer.cell c.fb (x0 + k) (y + (r + 1)) := by
      intro k r
      rw [cell_drawCols _ _ _ _ _ _ List.nodup_range]
      simp [show y + 1 + r = y + (r + 1) by omega]
    rw [drawRows, ih, hit_drawCols _ _ _ _ List.nodup_range, Bool.or_eq_true, List.any_eq_true, or_assoc]
    simp only [later, List.mem_range, Bool.and_eq_true]
    constructor
    · rintro (h | ⟨k, hk, hb, hc⟩ | ⟨r, k, hk, hb, hc⟩)
      · exact .inl h
      · exact .inr ⟨0, k, hk, by simpa using hb, by simpa using hc⟩
      · exact .inr ⟨r + 1, k, hk, by simpa using hb, hc⟩
    · rintro (h | ⟨r, k, hk, hb, hc⟩)
      · exact .inl h
      · cases r with
        | zero => exact .inr (.inl ⟨k, hk, by simpa using hb, by simpa using hc⟩)
        | succ r => exact .inr (.inr ⟨r, k, hk, by simpa using hb, hc⟩)

end Sys2Proof.Machine
end

