-- ==== Sys2Proof/Laws/Memory.lean ====
section
/-!
SUPPORT. Laws/Memory.lean: a read after a write, and the canonical form under every memory operation.
-/
namespace Sys2Proof.Machine

variable (rom : FontRom)

/-- A canonical memory lists nothing below its lower bound. -/
theorem Memory.read_below {m : Memory} {lo a : Nat} (hwf : Memory.wfFrom rom lo m = true) (ha : a < lo) :
    Memory.read rom m a = resetByte rom a := by
  induction m generalizing lo with
  | nil => rfl
  | cons c cs ih =>
    simp only [Memory.wfFrom, Bool.and_eq_true, decide_eq_true_eq] at hwf
    have hne : a ≠ c.1 := by omega
    rw [Memory.read, if_neg hne]
    exact ih hwf.2 (by omega)

/-- The lower bound may be lowered. -/
theorem Memory.wfFrom_mono {m : Memory} {lo lo' : Nat} (h : lo' ≤ lo) (hwf : Memory.wfFrom rom lo m = true) :
    Memory.wfFrom rom lo' m = true := by
  cases m with
  | nil => rfl
  | cons c cs =>
    simp only [Memory.wfFrom, Bool.and_eq_true, decide_eq_true_eq] at hwf ⊢
    exact ⟨⟨⟨by omega, hwf.1.1.2⟩, hwf.1.2⟩, hwf.2⟩

/-- A write leaves every other address alone, in any memory. -/
theorem Memory.read_write_ne (m : Memory) {a a' : Nat} (b : Byte) (h : a' ≠ a) :
    Memory.read rom (Memory.write rom m a b) a' = Memory.read rom m a' := by
  induction m with
  | nil =>
    unfold Memory.write
    split <;> simp [Memory.read, h]
  | cons c cs ih =>
    unfold Memory.write
    split
    · split <;> simp [Memory.read, h]
    · split
      · rename_i hac
        subst hac
        split <;> simp [Memory.read, h]
      · simp [Memory.read, ih]

/-- A read after a write to the same address gives the byte written, in a canonical memory. -/
theorem Memory.read_write_same {m : Memory} {lo a : Nat} (b : Byte) (hwf : Memory.wfFrom rom lo m = true) :
    Memory.read rom (Memory.write rom m a b) a = b := by
  induction m generalizing lo with
  | nil =>
    unfold Memory.write
    split
    · next h => simp [Memory.read, h]
    · simp [Memory.read]
  | cons c cs ih =>
    simp only [Memory.wfFrom, Bool.and_eq_true, decide_eq_true_eq] at hwf
    unfold Memory.write
    split
    · next hlt =>
      split
      · next h =>
        have hne : a ≠ c.1 := by omega
        rw [Memory.read, if_neg hne, Memory.read_below rom hwf.2 (by omega), h]
      · simp [Memory.read]
    · split
      · next hac =>
        split
        · next h => rw [Memory.read_below rom hwf.2 (by omega), h]
        · simp [Memory.read]
      · next hac =>
        rw [Memory.read, if_neg hac]
        exact ih hwf.2

/-- A write inside memory keeps the canonical form. -/
theorem Memory.wfFrom_write {m : Memory} {lo a : Nat} (b : Byte) (hwf : Memory.wfFrom rom lo m = true)
    (hlo : lo ≤ a) (ha : a < memSize) : Memory.wfFrom rom lo (Memory.write rom m a b) = true := by
  induction m generalizing lo with
  | nil =>
    unfold Memory.write
    split
    · rfl
    · next h => simp [Memory.wfFrom, hlo, ha, h]
  | cons c cs ih =>
    have hwf' := hwf
    simp only [Memory.wfFrom, Bool.and_eq_true, decide_eq_true_eq] at hwf'
    obtain ⟨⟨⟨h1, h2⟩, h3⟩, h4⟩ := hwf'
    unfold Memory.write
    split
    · next hlt =>
      split
      · exact hwf
      · next h =>
        simp only [Memory.wfFrom, Bool.and_eq_true, decide_eq_true_eq]
        exact ⟨⟨⟨hlo, ha⟩, h⟩, ⟨⟨by omega, h2⟩, h3⟩, h4⟩
    · split
      · next hac =>
        subst hac
        split
        · exact Memory.wfFrom_mono rom (by omega) h4
        · next h =>
          simp only [Memory.wfFrom, Bool.and_eq_true, decide_eq_true_eq]
          exact ⟨⟨⟨hlo, ha⟩, h⟩, h4⟩
      · simp only [Memory.wfFrom, Bool.and_eq_true, decide_eq_true_eq]
        exact ⟨⟨⟨h1, h2⟩, h3⟩, ih h4 (by omega)⟩

/-- A write inside memory keeps the canonical form. -/
theorem Memory.wf_write {m : Memory} {a : Nat} (b : Byte) (hwf : Memory.wf rom m = true) (ha : a < memSize) :
    Memory.wf rom (Memory.write rom m a b) = true :=
  Memory.wfFrom_write rom b hwf (Nat.zero_le a) ha

/-- A block write inside memory keeps the canonical form. -/
theorem Memory.wf_writeAll {bs : List Byte} {m : Memory} {a : Nat} (hwf : Memory.wf rom m = true)
    (ha : a + bs.length ≤ memSize) : Memory.wf rom (Memory.writeAll rom m a bs) = true := by
  induction bs generalizing m a with
  | nil => exact hwf
  | cons b bs ih =>
    simp only [List.length_cons] at ha
    exact ih (Memory.wf_write rom b hwf (by omega)) (by omega)

/-- A block write leaves every address outside the block alone, in any memory. -/
theorem Memory.read_writeAll_outside {bs : List Byte} {m : Memory} {a a' : Nat}
    (h : a' < a ∨ a + bs.length ≤ a') :
    Memory.read rom (Memory.writeAll rom m a bs) a' = Memory.read rom m a' := by
  induction bs generalizing m a with
  | nil => rfl
  | cons b bs ih =>
    simp only [List.length_cons] at h
    rw [Memory.writeAll, ih (by omega), Memory.read_write_ne rom m b (by omega)]

/-- A read inside a block just written gives its byte, in a canonical memory. -/
theorem Memory.read_writeAll_inside {bs : List Byte} {m : Memory} {a k : Nat} (hwf : Memory.wf rom m = true)
    (ha : a + bs.length ≤ memSize) (hk : k < bs.length) :
    Memory.read rom (Memory.writeAll rom m a bs) (a + k) = bs[k] := by
  induction bs generalizing m a k with
  | nil => simp at hk
  | cons b bs ih =>
    simp only [List.length_cons] at ha hk
    cases k with
    | zero =>
      rw [Memory.writeAll, Memory.read_writeAll_outside rom (by omega)]
      exact Memory.read_write_same rom b hwf
    | succ k =>
      have e : a + (k + 1) = a + 1 + k := by omega
      rw [Memory.writeAll, e, ih (Memory.wf_write rom b hwf (by omega)) (by omega) (by omega)]
      rfl

/-- The range test in words: no byte at all, or the last one at 4095 or below (20_memory.md R76). -/
theorem inRange_iff (a n : Nat) : inRange a n = true ↔ n = 0 ∨ a + n ≤ memSize := by
  simp [inRange]

variable (s : State)

/-- What a checked load can answer. -/
theorem State.load_eq (a n : Nat) :
    (n = 0 ∨ a + n ≤ memSize) ∧ s.load a n = some ((List.range n).map (fun k => s.byte (a + k))) ∨
    (0 < n ∧ memSize < a + n) ∧ s.load a n = none := by
  unfold State.load
  by_cases h : inRange a n = true
  · exact .inl ⟨(inRange_iff a n).mp h, if_pos h⟩
  · refine .inr ⟨?_, if_neg h⟩
    rw [inRange_iff] at h
    omega

/-- What a checked store can answer. -/
theorem State.store_eq (a : Nat) (bs : List Byte) :
    (bs.length = 0 ∨ a + bs.length ≤ memSize) ∧
      s.store a bs = some { s with mem := Memory.writeAll s.params.fontRom s.mem a bs } ∨
    (0 < bs.length ∧ memSize < a + bs.length) ∧ s.store a bs = none := by
  unfold State.store
  by_cases h : inRange a bs.length = true
  · exact .inl ⟨(inRange_iff a _).mp h, if_pos h⟩
  · refine .inr ⟨?_, if_neg h⟩
    rw [inRange_iff] at h
    omega

/-- What a push can answer. -/
theorem State.push_eq (t : Word) :
    s.stack.length < s.params.stackDepth ∧ s.push t = some { s with stack := t :: s.stack } ∨
    s.params.stackDepth ≤ s.stack.length ∧ s.push t = none := by
  unfold State.push
  split
  · exact .inl ⟨‹_›, rfl⟩
  · exact .inr ⟨by omega, rfl⟩

/-- What a pop can answer. -/
theorem State.pop_eq :
    (∃ t rest, s.stack = t :: rest ∧ s.pop = some (t, { s with stack := rest })) ∨ s.stack = [] ∧ s.pop = none := by
  unfold State.pop
  split
  · exact .inr ⟨‹_›, rfl⟩
  · exact .inl ⟨_, _, ‹_›, rfl⟩

/-- What a fetch can answer (20_memory.md R80). -/
theorem State.fetch_eq :
    s.pc.toNat ≤ 4094 ∧
      s.fetch = some (wordOfBytes (s.byte s.pc.toNat) (s.byte (s.pc.toNat + 1)), s.setPc (s.pc + 2)) ∨
    4095 ≤ s.pc.toNat ∧ s.fetch = none := by
  unfold State.fetch
  split
  · next h => exact .inr ⟨by simpa [memSize] using h, rfl⟩
  · next h =>
    refine .inl ⟨?_, rfl⟩
    simp only [memSize] at h
    omega

end Sys2Proof.Machine
end

