-- ==== Sys2Proof/Laws/Registers.lean ====
section
/-!
SUPPORT. Laws/Registers.lean: reading a register after a write.
-/
namespace Sys2Proof.Machine

variable (s : State)

/-- A register write reaches the register it names and no other. -/
@[simp] theorem State.reg_setReg (x y : Reg) (b : Byte) :
    (s.setReg x b).reg y = if y = x then b else s.reg y := by
  simp only [State.reg, State.setReg, Vector.getElem_set, BitVec.toNat_inj, eq_comm (a := x)]

/-- A flag write reaches VF and no other register. -/
@[simp] theorem State.reg_setFlag (y : Reg) (c : Bool) :
    (s.setFlag c).reg y = if y = vF then flagByte c else s.reg y := s.reg_setReg vF y (flagByte c)

/-- A result write leaves VF holding the flag, the destination the data unless it is VF, and every other register as it
was (10_state.md R39). -/
@[simp] theorem State.reg_setResult (x y : Reg) (b : Byte) (c : Bool) :
    (s.setResult x b c).reg y = if y = vF then flagByte c else if y = x then b else s.reg y := by
  simp only [State.setResult, State.reg_setFlag, State.reg_setReg]

/-- A block of bytes put into the register file lands on consecutive registers and nowhere else. -/
theorem getElem_fillFrom (bs : List Byte) (v : Vector Byte 16) (k j : Nat) (hj : j < 16) :
    (fillFrom v k bs)[j] = if h : k ≤ j ∧ j - k < bs.length then bs[j - k] else v[j] := by
  induction bs generalizing v k with
  | nil => simp [fillFrom]
  | cons b bs ih =>
    rw [fillFrom, ih, Vector.getElem_setIfInBounds]
    by_cases hkj : k = j
    · subst hkj
      rw [dif_neg (by omega), dif_pos ⟨Nat.le_refl k, by simp⟩]
      simp
    · by_cases hlt : k ≤ j
      · have e : j - k = j - (k + 1) + 1 := by omega
        have hle : k + 1 ≤ j := by omega
        simp only [hkj, if_false, hle, hlt, true_and, List.length_cons]
        by_cases hb : j - (k + 1) < bs.length
        · have hb' : j - k < bs.length + 1 := by omega
          simp only [hb, hb', dif_pos]
          simp only [e, List.getElem_cons_succ]
        · have hb' : ¬ j - k < bs.length + 1 := by omega
          simp only [hb, hb', dif_neg, not_false_iff]
      · have hle : ¬ k + 1 ≤ j := by omega
        simp [hkj, hlt, hle]

/-- `V[0 ..]` loaded from a list: register `y` gets its byte where the list has one, and keeps its value otherwise. -/
@[simp] theorem State.reg_setLowRegs (bs : List Byte) (y : Reg) :
    (s.setLowRegs bs).reg y = if h : y.toNat < bs.length then bs[y.toNat] else s.reg y := by
  simp [State.reg, State.setLowRegs, getElem_fillFrom]

/-- `V[0..x]` has `x + 1` bytes. -/
@[simp] theorem State.length_lowRegs (x : Reg) : (s.lowRegs x).length = x.toNat + 1 := by
  have := x.isLt
  simp [State.lowRegs]
  omega

/-- The `k`-th byte of `V[0..x]` is `V[k]`. -/
theorem State.getElem_lowRegs (x y : Reg) (h : y.toNat < (s.lowRegs x).length) :
    (s.lowRegs x)[y.toNat] = s.reg y := by
  simp [State.lowRegs, State.reg]

/-- A flag byte is 0 or 1 (10_state.md R38). -/
theorem flagByte_cases (c : Bool) : flagByte c = 0 ∨ flagByte c = 1 := by
  cases c <;> simp [flagByte]

end Sys2Proof.Machine
end

