-- ==== Sys2Proof/Laws/Exec.lean ====
section
/-!
SUPPORT. Laws/Exec.lean: everything the meanings that branch can answer, and everything a step can be. The other meanings
have one answer, which unfolding them shows.
-/
namespace Sys2Proof.Machine

variable (s : State)

/-- RET pops or records StackUnderflow. -/
theorem execRet_cases :
    (∃ a rest, s.stack = a :: rest ∧ execRet s = .next (({ s with stack := rest } : State).setPc a)) ∨
    (s.stack = [] ∧ execRet s = .next (s.raiseIn .stackUnderflow .ret)) := by
  rcases s.pop_eq with ⟨a, rest, h, e⟩ | ⟨h, e⟩
  · exact .inl ⟨a, rest, h, by rw [execRet, e]⟩
  · exact .inr ⟨h, by rw [execRet, e]⟩

/-- CALL pushes and jumps or records StackOverflow. -/
theorem execCall_cases (nnn : Addr) :
    (s.stack.length < s.params.stackDepth ∧
      execCall nnn s = .next (({ s with stack := s.pc :: s.stack } : State).setPc (literalWord nnn))) ∨
    (s.params.stackDepth ≤ s.stack.length ∧ execCall nnn s = .next (s.raiseIn .stackOverflow (.call nnn))) := by
  rcases s.push_eq s.pc with ⟨h, e⟩ | ⟨h, e⟩
  · exact .inl ⟨h, by rw [execCall, e]⟩
  · exact .inr ⟨h, by rw [execCall, e]⟩

/-- The canvas DRW leaves when its rows lie in memory. -/
def State.drawing (x y : Reg) (n : Nibble) : Canvas :=
  drawRows (s.originX x) (s.originY y) ((List.range n.toNat).map (fun k => s.byte (s.base + k)))
    { fb := s.fb, hit := false }

/-- DRW draws or records MemOutOfRange. -/
theorem execDrw_cases (x y : Reg) (n : Nibble) :
    ((n.toNat = 0 ∨ s.index.toNat + n.toNat ≤ 4096) ∧
      execDrw x y n s = .next ((s.setFb (s.drawing x y n).fb).setFlag (s.drawing x y n).hit)) ∨
    ((0 < n.toNat ∧ 4096 < s.index.toNat + n.toNat) ∧
      execDrw x y n s = .next (s.raiseIn .memOutOfRange (.drw x y n))) := by
  rcases s.load_eq s.base n.toNat with ⟨h, e⟩ | ⟨h, e⟩
  · exact .inl ⟨h, by rw [execDrw, e]; rfl⟩
  · exact .inr ⟨h, by rw [execDrw, e]⟩

/-- LD_VX_K goes back or stores the key. -/
theorem execLdVxK_cases (x : Reg) :
    (s.key = none ∧ execLdVxK x s = .next (s.setPc (s.pc - 2))) ∨
    (∃ k, s.key = some k ∧ execLdVxK x s = .next (s.setReg x (k.setWidth 8))) := by
  unfold execLdVxK
  split
  · exact .inl ⟨‹_›, rfl⟩
  · exact .inr ⟨_, ‹_›, rfl⟩

/-- LD_B stores three digits or records MemOutOfRange. -/
theorem execLdB_cases (x : Reg) :
    (s.index.toNat + 3 ≤ 4096 ∧ execLdB x s = .next
      { s with mem := Memory.writeAll s.params.fontRom s.mem s.index.toNat (digits (s.reg x)) }) ∨
    (4096 < s.index.toNat + 3 ∧ execLdB x s = .next (s.raiseIn .memOutOfRange (.ldB x))) := by
  have hl : (digits (s.reg x)).length = 3 := rfl
  rcases s.store_eq s.base (digits (s.reg x)) with ⟨h, e⟩ | ⟨h, e⟩
  · refine .inl ⟨?_, by rw [execLdB, e]; rfl⟩
    simp only [hl, State.base, memSize] at h
    omega
  · refine .inr ⟨?_, by rw [execLdB, e]⟩
    simp only [hl, State.base, memSize] at h
    omega

/-- ST_REGS stores its block or records MemOutOfRange. -/
theorem execStRegs_cases (x : Reg) :
    (s.index.toNat + x.toNat + 1 ≤ 4096 ∧ execStRegs x s = .next
      (({ s with mem := Memory.writeAll s.params.fontRom s.mem s.index.toNat (s.lowRegs x) } : State).setIndex
        (s.blockIndex x))) ∨
    (4096 < s.index.toNat + x.toNat + 1 ∧ execStRegs x s = .next (s.raiseIn .memOutOfRange (.stRegs x))) := by
  rcases s.store_eq s.base (s.lowRegs x) with ⟨h, e⟩ | ⟨h, e⟩
  · refine .inl ⟨?_, by rw [execStRegs, e]; rfl⟩
    simp only [State.length_lowRegs, State.base, memSize] at h
    omega
  · refine .inr ⟨?_, by rw [execStRegs, e]⟩
    simp only [State.length_lowRegs, State.base, memSize] at h
    omega

/-- LD_REGS loads its block or records MemOutOfRange. -/
theorem execLdRegs_cases (x : Reg) :
    (s.index.toNat + x.toNat + 1 ≤ 4096 ∧ execLdRegs x s = .next
      ((s.setLowRegs ((List.range (x.toNat + 1)).map (fun k => s.byte (s.index.toNat + k)))).setIndex
        (s.blockIndex x))) ∨
    (4096 < s.index.toNat + x.toNat + 1 ∧ execLdRegs x s = .next (s.raiseIn .memOutOfRange (.ldRegs x))) := by
  rcases s.load_eq s.base (x.toNat + 1) with ⟨h, e⟩ | ⟨h, e⟩
  · refine .inl ⟨?_, by rw [execLdRegs, e]; rfl⟩
    simp only [State.base, memSize] at h
    omega
  · refine .inr ⟨?_, by rw [execLdRegs, e]⟩
    simp only [State.base, memSize] at h
    omega

/-- A cycle on a core that is not halted: a fetch that cannot be made, an instruction, or an unrecognized word. -/
theorem runInstruction_cases :
    (4095 ≤ s.pc.toNat ∧ runInstruction s = .next (s.raise .fetchOutOfRange s.pc 0)) ∨
    (s.pc.toNat ≤ 4094 ∧ ∃ i, decodeWord (wordOfBytes (s.byte s.pc.toNat) (s.byte (s.pc.toNat + 1))) = .ok i ∧
      runInstruction s = exec i (s.setPc (s.pc + 2))) ∨
    (s.pc.toNat ≤ 4094 ∧ ∃ e, decodeWord (wordOfBytes (s.byte s.pc.toNat) (s.byte (s.pc.toNat + 1))) = .error e ∧
      runInstruction s = .next ((s.setPc (s.pc + 2)).unrecognized
        (wordOfBytes (s.byte s.pc.toNat) (s.byte (s.pc.toNat + 1))))) := by
  rcases s.fetch_eq with ⟨h, e⟩ | ⟨h, e⟩
  · cases hd : decodeWord (wordOfBytes (s.byte s.pc.toNat) (s.byte (s.pc.toNat + 1))) with
    | ok i => exact .inr (.inl ⟨h, i, rfl, by simp only [runInstruction, e, hd]⟩)
    | error r => exact .inr (.inr ⟨h, r, rfl, by simp only [runInstruction, e, hd]⟩)
  · exact .inl ⟨h, by simp only [runInstruction, e]⟩

/-- A load copies its image, fails, or is not enabled. -/
theorem loadProgram_cases (image : List Byte) :
    (s.loadable = true ∧ image.length ≤ 3584 ∧ loadProgram image s = .next (s.withImage image)) ∨
    (s.loadable = true ∧ 3584 < image.length ∧ loadProgram image s = .next s.failLoad) ∨
    (s.loadable = false ∧ loadProgram image s = .refused .loadNotEnabled) := by
  have hmax : maxImage = 3584 := rfl
  by_cases hl : s.loadable = true
  · by_cases hlen : maxImage < image.length
    · exact .inr (.inl ⟨hl, by omega, by simp [loadProgram, hl, hlen]⟩)
    · exact .inl ⟨hl, by omega, by simp [loadProgram, hl, hlen]⟩
  · have hf : s.loadable = false := by simpa using hl
    exact .inr (.inr ⟨hf, by simp [loadProgram, hf]⟩)

/-- A cycle is refused on a halted core, stops after a failed load, and else runs one instruction. -/
theorem cycle_cases :
    (∃ f, s.fault = some f ∧ cycle s = .refused (.halted f)) ∨
    (s.fault = none ∧ s.loadFailed = true ∧ cycle s = .fault .romLoadError) ∨
    (s.fault = none ∧ s.loadFailed = false ∧ cycle s = runInstruction s.started) := by
  cases hf : s.fault with
  | some f => exact .inl ⟨f, rfl, by simp only [cycle, hf]⟩
  | none =>
    cases hl : s.loadFailed with
    | true => exact .inr (.inl ⟨rfl, rfl, by simp [cycle, hf, hl]⟩)
    | false => exact .inr (.inr ⟨rfl, rfl, by simp [cycle, hf, hl]⟩)

/-- Everything a step that answers a next state can have been. -/
theorem step_cases {s t : State} (h : step s = .next t) :
    (s.nextMove = .cpu ∧ s.fault = none ∧ s.loadFailed = false ∧ runInstruction s.moveTaken.started = .next t) ∨
    (s.nextMove = .tick ∧ t = s.moveTaken.tick) ∨
    (∃ k, s.nextMove = .setKey k ∧ t = s.moveTaken.setKey k) ∨
    (∃ image, s.nextMove = .loadProgram image ∧ s.loadable = true ∧ image.length ≤ 3584 ∧
      t = s.moveTaken.withImage image) ∨
    (∃ image, s.nextMove = .loadProgram image ∧ s.loadable = true ∧ 3584 < image.length ∧
      t = s.moveTaken.failLoad) ∨
    (s.nextMove = .getFramebuffer ∧ t = s.moveTaken) ∨
    (∃ q p, s.nextMove = .reset q p ∧ t = s.moveTaken.resetBy q p) := by
  unfold step at h
  cases hm : s.nextMove with
  | cpu =>
    rw [hm] at h
    rcases cycle_cases s.moveTaken with ⟨f, _, e⟩ | ⟨_, _, e⟩ | ⟨hf, hl, e⟩
    · cases e.symm.trans h
    · cases e.symm.trans h
    · exact .inl ⟨rfl, hf, hl, e.symm.trans h⟩
  | tick =>
    rw [hm] at h
    cases h
    exact .inr (.inl ⟨rfl, rfl⟩)
  | setKey k =>
    rw [hm] at h
    cases h
    exact .inr (.inr (.inl ⟨k, rfl, rfl⟩))
  | loadProgram image =>
    rw [hm] at h
    rcases loadProgram_cases s.moveTaken image with ⟨hl, hn, e⟩ | ⟨hl, hn, e⟩ | ⟨_, e⟩
    · cases e.symm.trans h
      exact .inr (.inr (.inr (.inl ⟨image, rfl, hl, hn, rfl⟩)))
    · cases e.symm.trans h
      exact .inr (.inr (.inr (.inr (.inl ⟨image, rfl, hl, hn, rfl⟩))))
    · cases e.symm.trans h
  | getFramebuffer =>
    rw [hm] at h
    cases h
    exact .inr (.inr (.inr (.inr (.inr (.inl ⟨rfl, rfl⟩)))))
  | reset q p =>
    rw [hm] at h
    cases h
    exact .inr (.inr (.inr (.inr (.inr (.inr ⟨q, p, rfl, rfl⟩)))))

end Sys2Proof.Machine
end

