-- ==== Sys2Proof/Laws/PerInstr.lean ====
section
/-!
SUPPORT. Laws/PerInstr.lean: the family OpGroup, a statement about every instruction as a term: the operation group of its
word is the high nibble of its row's pattern (30_encoding.md R103).
-/
namespace Sys2Proof.Laws.OpGroup

/-- The high nibble of the pattern column of the opcode map. -/
def group : Instr → BitVec 4
  | .cls => 0x0
  | .ret => 0x0
  | .jp _ => 0x1
  | .call _ => 0x2
  | .seImm _ _ => 0x3
  | .sneImm _ _ => 0x4
  | .seReg _ _ => 0x5
  | .ldImm _ _ => 0x6
  | .addImm _ _ => 0x7
  | .ldReg _ _ => 0x8
  | .or _ _ => 0x8
  | .and _ _ => 0x8
  | .xor _ _ => 0x8
  | .addReg _ _ => 0x8
  | .sub _ _ => 0x8
  | .shr _ _ => 0x8
  | .subn _ _ => 0x8
  | .shl _ _ => 0x8
  | .sneReg _ _ => 0x9
  | .ldI _ => 0xA
  | .jpOff _ _ => 0xB
  | .rnd _ _ => 0xC
  | .drw _ _ _ => 0xD
  | .skp _ => 0xE
  | .sknp _ => 0xE
  | .ldVxDt _ => 0xF
  | .ldVxK _ => 0xF
  | .ldDtVx _ => 0xF
  | .ldStVx _ => 0xF
  | .addI _ => 0xF
  | .ldF _ => 0xF
  | .ldB _ => 0xF
  | .stRegs _ => 0xF
  | .ldRegs _ => 0xF

/-- The word of the instruction carries the group of its row. -/
def Statement (i : Instr) : Prop := opG (encodeWord i) = group i

theorem cls : Statement .cls := by unfold Statement; decide
theorem ret : Statement .ret := by unfold Statement; decide
theorem jp (nnn : Addr) : Statement (.jp nnn) := opG_formNNN _ _
theorem call (nnn : Addr) : Statement (.call nnn) := opG_formNNN _ _
theorem seImm (x : Reg) (nn : Byte) : Statement (.seImm x nn) := opG_formXNN _ _ _
theorem sneImm (x : Reg) (nn : Byte) : Statement (.sneImm x nn) := opG_formXNN _ _ _
theorem seReg (x y : Reg) : Statement (.seReg x y) := opG_formXYN _ _ _ _
theorem ldImm (x : Reg) (nn : Byte) : Statement (.ldImm x nn) := opG_formXNN _ _ _
theorem addImm (x : Reg) (nn : Byte) : Statement (.addImm x nn) := opG_formXNN _ _ _
theorem ldReg (x y : Reg) : Statement (.ldReg x y) := opG_formXYN _ _ _ _
theorem or (x y : Reg) : Statement (.or x y) := opG_formXYN _ _ _ _
theorem and (x y : Reg) : Statement (.and x y) := opG_formXYN _ _ _ _
theorem xor (x y : Reg) : Statement (.xor x y) := opG_formXYN _ _ _ _
theorem addReg (x y : Reg) : Statement (.addReg x y) := opG_formXYN _ _ _ _
theorem sub (x y : Reg) : Statement (.sub x y) := opG_formXYN _ _ _ _
theorem shr (x y : Reg) : Statement (.shr x y) := opG_formXYN _ _ _ _
theorem subn (x y : Reg) : Statement (.subn x y) := opG_formXYN _ _ _ _
theorem shl (x y : Reg) : Statement (.shl x y) := opG_formXYN _ _ _ _
theorem sneReg (x y : Reg) : Statement (.sneReg x y) := opG_formXYN _ _ _ _
theorem ldI (nnn : Addr) : Statement (.ldI nnn) := opG_formNNN _ _
theorem jpOff (x : Reg) (nnn : Addr) : Statement (.jpOff x nnn) := opG_formNNN _ _
theorem rnd (x : Reg) (nn : Byte) : Statement (.rnd x nn) := opG_formXNN _ _ _
theorem drw (x y : Reg) (n : Nibble) : Statement (.drw x y n) := opG_formXYN _ _ _ _
theorem skp (x : Reg) : Statement (.skp x) := opG_formXNN _ _ _
theorem sknp (x : Reg) : Statement (.sknp x) := opG_formXNN _ _ _
theorem ldVxDt (x : Reg) : Statement (.ldVxDt x) := opG_formXNN _ _ _
theorem ldVxK (x : Reg) : Statement (.ldVxK x) := opG_formXNN _ _ _
theorem ldDtVx (x : Reg) : Statement (.ldDtVx x) := opG_formXNN _ _ _
theorem ldStVx (x : Reg) : Statement (.ldStVx x) := opG_formXNN _ _ _
theorem addI (x : Reg) : Statement (.addI x) := opG_formXNN _ _ _
theorem ldF (x : Reg) : Statement (.ldF x) := opG_formXNN _ _ _
theorem ldB (x : Reg) : Statement (.ldB x) := opG_formXNN _ _ _
theorem stRegs (x : Reg) : Statement (.stRegs x) := opG_formXNN _ _ _
theorem ldRegs (x : Reg) : Statement (.ldRegs x) := opG_formXNN _ _ _

end Sys2Proof.Laws.OpGroup
end

