-- ==== Sys2Proof/Tests/Slice0.lean ====
section
/-!
SUPPORT. Tests/Slice0.lean: small tests of the model. Expected results are from the spec: the encodings of 30_encoding.md
R103, the examples of the instruction rules and the vectors of 95_test_vectors.md (their names stand in the comments).
The last part shows, for each statement with hypotheses, a state and operands that meet them.
-/
namespace Sys2Proof.Tests

open Sys2Proof.Machine

/-- The next state, where there is one. -/
def nextOf : Result → Option State
  | .next t => some t
  | .fault _ => none
  | .refused _ => none

/-- The reset state with `pc` at 0x202, as in the execution of an instruction at 0x200. -/
def start : State := State.reset.setPc 0x202

/-- One field of the state after an instruction, or a default that no test expects. -/
def after {α : Type} (i : Instr) (s : State) (f : State → α) : Option α := (nextOf (exec i s)).map f

/-- One field of the state after one step of the machine. -/
def stepped {α : Type} (s : State) (f : State → α) : Option α := (nextOf (step s)).map f

/-- The reset state with Q_SHIFT, Q_JUMP and Q_MEM set. -/
def modern : State := (State.resetWith ⟨true, true, true⟩ defaultParams).setPc 0x202

/-! ### WellFormed -/

-- BNNN: X must be the high nibble of NNN (40_flow.md R133).
theorem test_wellFormed_refuses_jpOff : Instr.wellFormed (.jpOff 3 0x210) = false := by decide
theorem test_wellFormed_takes_jpOff : Instr.wellFormed (.jpOff 2 0x210) = true := by decide

/-! ### Decode: one word a row, its bits written out from the encoding column -/

theorem test_decode_cls : decodeTableWord 16 0b0000000011100000 = some .cls := by decide
theorem test_decode_ret : decodeTableWord 16 0b0000000011101110 = some .ret := by decide
theorem test_decode_jp : decodeTableWord 16 0b0001001000110100 = some (.jp 0x234) := by decide
theorem test_decode_call : decodeTableWord 16 0b0010001100000000 = some (.call 0x300) := by decide
theorem test_decode_seImm : decodeTableWord 16 0b0011101000000101 = some (.seImm 10 5) := by decide
theorem test_decode_sneImm : decodeTableWord 16 0b0100101000000101 = some (.sneImm 10 5) := by decide
theorem test_decode_seReg : decodeTableWord 16 0b0101000100100000 = some (.seReg 1 2) := by decide
theorem test_decode_ldImm : decodeTableWord 16 0b0110000000001010 = some (.ldImm 0 0x0A) := by decide
theorem test_decode_addImm : decodeTableWord 16 0b0111000100000101 = some (.addImm 1 5) := by decide
theorem test_decode_ldReg : decodeTableWord 16 0b1000000100100000 = some (.ldReg 1 2) := by decide
theorem test_decode_or : decodeTableWord 16 0b1000000100100001 = some (.or 1 2) := by decide
theorem test_decode_and : decodeTableWord 16 0b1000000100100010 = some (.and 1 2) := by decide
theorem test_decode_xor : decodeTableWord 16 0b1000000100100011 = some (.xor 1 2) := by decide
theorem test_decode_addReg : decodeTableWord 16 0b1000000000010100 = some (.addReg 0 1) := by decide
theorem test_decode_sub : decodeTableWord 16 0b1000000100100101 = some (.sub 1 2) := by decide
theorem test_decode_shr : decodeTableWord 16 0b1000000100100110 = some (.shr 1 2) := by decide
theorem test_decode_subn : decodeTableWord 16 0b1000000100100111 = some (.subn 1 2) := by decide
theorem test_decode_shl : decodeTableWord 16 0b1000000100101110 = some (.shl 1 2) := by decide
theorem test_decode_sneReg : decodeTableWord 16 0b1001101010110000 = some (.sneReg 10 11) := by decide
theorem test_decode_ldI : decodeTableWord 16 0b1010001100000000 = some (.ldI 0x300) := by decide
theorem test_decode_jpOff : decodeTableWord 16 0b1011001000010000 = some (.jpOff 2 0x210) := by decide
theorem test_decode_rnd : decodeTableWord 16 0b1100001100001111 = some (.rnd 3 0x0F) := by decide
theorem test_decode_drw : decodeTableWord 16 0b1101000000010101 = some (.drw 0 1 5) := by decide
theorem test_decode_skp : decodeTableWord 16 0b1110001110011110 = some (.skp 3) := by decide
theorem test_decode_sknp : decodeTableWord 16 0b1110001110100001 = some (.sknp 3) := by decide
theorem test_decode_ldVxDt : decodeTableWord 16 0b1111001000000111 = some (.ldVxDt 2) := by decide
theorem test_decode_ldVxK : decodeTableWord 16 0b1111010100001010 = some (.ldVxK 5) := by decide
theorem test_decode_ldDtVx : decodeTableWord 16 0b1111001000010101 = some (.ldDtVx 2) := by decide
theorem test_decode_ldStVx : decodeTableWord 16 0b1111010000011000 = some (.ldStVx 4) := by decide
theorem test_decode_addI : decodeTableWord 16 0b1111000100011110 = some (.addI 1) := by decide
theorem test_decode_ldF : decodeTableWord 16 0b1111001100101001 = some (.ldF 3) := by decide
theorem test_decode_ldB : decodeTableWord 16 0b1111001000110011 = some (.ldB 2) := by decide
theorem test_decode_stRegs : decodeTableWord 16 0b1111001101010101 = some (.stRegs 3) := by decide
theorem test_decode_ldRegs : decodeTableWord 16 0b1111000101100101 = some (.ldRegs 1) := by decide

-- Unrecognized words of 95_test_vectors.md section 2.1.
theorem test_decode_rejects : [0x0000, 0x00E1, 0x0123, 0x5121, 0x8128, 0x812F, 0x9ABF, 0xE19F, 0xE000, 0xF100, 0xF175,
    0xF185].map (decodeTableWord 16) = List.replicate 12 none := by decide
theorem test_decode_truncated : (decode [0x12]).toOption = none := by decide

-- The encoder against the same words, the operands at the edges of their fields.
theorem test_encode_words : [Instr.jp 0xFFF, .seImm 15 0xFF, .drw 15 0 15, .jpOff 15 0xFFF, .ldRegs 15].map encodeWord =
    [0x1FFF, 0x3FFF, 0xDF0F, 0xBFFF, 0xFF65] := by decide

/-! ### Instructions -/

-- J3, J4, J5, J6 of 95_test_vectors.md.
theorem test_call : after (.call 0x300) (start.setPc 0x204) (fun t => (t.stack, t.pc)) = some ([0x0204], 0x300) := by decide
theorem test_call_full : after (.call 0x300) { start with stack := List.replicate 16 0x202 }
    (fun t => (t.fault, t.faultAddr, t.faultOpcode, t.pc, t.stack.length)) =
    some (some .stackOverflow, 0x200, 0x2300, 0x202, 16) := by decide
theorem test_ret : after .ret { start with stack := [0x030A, 0x0204] } (fun t => (t.pc, t.stack)) =
    some (0x030A, [0x0204]) := by decide
theorem test_ret_empty : after .ret start (fun t => (t.fault, t.faultAddr, t.faultOpcode, t.pc)) =
    some (some .stackUnderflow, 0x200, 0x00EE, 0x202) := by decide
-- J1, J8, J10.
theorem test_jp : after (.jp 0xABC) start (fun t => t.pc) = some 0x0ABC := by decide
theorem test_jpOff_off : after (.jpOff 2 0x210) (start.setReg 2 4) (fun t => t.pc) = some 0x210 := by decide
theorem test_jpOff_on : after (.jpOff 15 0xFFF) (modern.setReg 15 0xFF) (fun t => t.pc) = some 0x10FE := by decide
-- K1, K3, K7, K10.
theorem test_seImm : after (.seImm 10 5) (start.setReg 10 5) (fun t => t.pc) = some 0x204 := by decide
theorem test_sneImm : after (.sneImm 10 5) (start.setReg 10 5) (fun t => t.pc) = some 0x202 := by decide
theorem test_seReg : after (.seReg 7 7) start (fun t => t.pc) = some 0x204 := by decide
theorem test_sneReg : after (.sneReg 7 7) start (fun t => t.pc) = some 0x202 := by decide
-- L2, L4, L6, L8.
theorem test_ldImm_vf : after (.ldImm 15 0) (start.setReg 15 1) (fun t => t.reg 15) = some 0 := by decide
theorem test_addImm_no_flag : after (.addImm 1 1) (start.setReg 1 0xFF) (fun t => (t.reg 1, t.reg 15)) = some (0, 0) := by
  decide
theorem test_addImm_vf : after (.addImm 15 0x20) (start.setReg 15 0xF0) (fun t => t.reg 15) = some 0x10 := by decide
theorem test_rnd_no_mask : after (.rnd 3 0) (start.setReg 3 9) (fun t => (t.reg 3 &&& 0xFF, t.draws)) =
    some (Config.draw 0 &&& 0 &&& 0xFF, 1) := by rfl
-- A1, A2, A3, A4.
theorem test_ldReg : after (.ldReg 1 2) (start.setReg 2 0x7B) (fun t => t.reg 1) = some 0x7B := by decide
theorem test_or_keeps_vf : after (.or 1 2) (((start.setReg 1 0xF0).setReg 2 0x0F).setReg 15 1)
    (fun t => (t.reg 1, t.reg 15)) = some (0xFF, 1) := by decide
theorem test_and : after (.and 1 2) ((start.setReg 1 0xF0).setReg 2 0x3C) (fun t => t.reg 1) = some 0x30 := by decide
theorem test_xor : after (.xor 1 2) ((start.setReg 1 0xF0).setReg 2 0x3C) (fun t => t.reg 1) = some 0xCC := by decide
-- A24, A26, A31, A35, A36, A38.
theorem test_addReg_into_vf : after (.addReg 15 2) ((start.setReg 15 0xF0).setReg 2 0x20) (fun t => t.reg 15) = some 1 := by
  decide
theorem test_addReg_from_vf : after (.addReg 1 15) ((start.setReg 1 0xFF).setReg 15 1) (fun t => (t.reg 1, t.reg 15)) =
    some (0, 1) := by decide
theorem test_sub_borrow : after (.sub 1 2) ((start.setReg 1 5).setReg 2 0x0A) (fun t => (t.reg 1, t.reg 15)) =
    some (0xFB, 0) := by decide
theorem test_sub_from_vf : after (.sub 1 15) ((start.setReg 1 5).setReg 15 1) (fun t => (t.reg 1, t.reg 15)) =
    some (4, 1) := by decide
theorem test_subn : after (.subn 1 2) ((start.setReg 1 5).setReg 2 0x0A) (fun t => (t.reg 1, t.reg 15)) =
    some (5, 1) := by decide
theorem test_subn_equal : after (.subn 1 2) ((start.setReg 1 7).setReg 2 7) (fun t => (t.reg 1, t.reg 15)) =
    some (0, 1) := by decide
-- A40, A45, A46, A49.
theorem test_shr_off : after (.shr 1 2) ((start.setReg 1 5).setReg 2 8) (fun t => (t.reg 1, t.reg 15, t.reg 2)) =
    some (4, 0, 8) := by decide
theorem test_shr_on_vf : after (.shr 15 1) ((modern.setReg 15 0x81).setReg 1 3) (fun t => t.reg 15) = some 1 := by decide
theorem test_shl_off : after (.shl 1 2) ((start.setReg 1 0x81).setReg 2 0x40) (fun t => (t.reg 1, t.reg 15)) =
    some (0x80, 0) := by decide
theorem test_shl_on_vf : after (.shl 15 1) ((modern.setReg 15 0x81).setReg 1 3) (fun t => t.reg 15) = some 1 := by decide

/-- The sprite FF 81 FF at 0x300 of 95_test_vectors.md section 2.6. -/
def sprite : State :=
  { start with index := 0x300, mem := [(0x300, 0xFF), (0x301, 0x81), (0x302, 0xFF)] }

/-- The true cells of a row. -/
def rowCells (t : State) (y : Nat) : List Nat := (List.range 64).filter (fun x => t.pixel x y)

-- D1: origin (3, 1).
theorem test_drw_wraps_origin : after (.drw 1 2 3) ((sprite.setReg 1 67).setReg 2 33)
    (fun t => (rowCells t 0, rowCells t 1, rowCells t 2, rowCells t 3, t.reg 15)) =
    some ([], [3, 4, 5, 6, 7, 8, 9, 10], [3, 10], [3, 4, 5, 6, 7, 8, 9, 10], 0) := by decide
-- D2 with the cell (63, 31) set before: clipped at both edges, and a collision there.
theorem test_drw_clips_and_collides : after (.drw 1 2 3)
    (((sprite.setReg 1 60).setReg 2 31).setFb (Framebuffer.flip Framebuffer.clear 63 31))
    (fun t => (rowCells t 30, rowCells t 31, rowCells t 0, t.reg 15)) = some ([], [60, 61, 62], [], 1) := by decide
-- D0, D13.
theorem test_cls : after .cls (start.setFb (Framebuffer.flip Framebuffer.clear 63 31)) (fun t => rowCells t 31) =
    some [] := by decide
theorem test_ldF_masks : after (.ldF 3) (start.setReg 3 0x1A) (fun t => t.index) = some 0x82 := by decide
theorem test_ldF_unmasked : after (.ldF 3) { start.setReg 3 0x1A with params := { defaultParams with fontIndexMask := false } }
    (fun t => t.index) = some 0xD2 := by decide
-- T4, T5, T6, T9, T10.
theorem test_skp_key_zero : after (.skp 3) (start.setKey (some 0)) (fun t => t.pc) = some 0x204 := by decide
theorem test_skp_no_masking : after (.skp 3) ((start.setReg 3 0x15).setKey (some 5)) (fun t => t.pc) = some 0x202 := by decide
theorem test_sknp_no_key : after (.sknp 3) start (fun t => t.pc) = some 0x204 := by decide
theorem test_sknp_same_key : after (.sknp 3) ((start.setReg 3 10).setKey (some 10)) (fun t => t.pc) = some 0x202 := by decide
-- T11, T12, T13, T14, T15.
theorem test_ldVxK_spins : after (.ldVxK 5) (start.setPc 0x212) (fun t => t.pc) = some 0x210 := by decide
theorem test_ldVxK_key : after (.ldVxK 5) (start.setKey (some 7)) (fun t => (t.reg 5, t.pc, t.key)) =
    some (7, 0x202, some 7) := by decide
theorem test_ldVxDt : after (.ldVxDt 2) (start.setDt 0x3C) (fun t => t.reg 2) = some 0x3C := by decide
theorem test_ldDtVx : after (.ldDtVx 2) (start.setReg 2 0x3C) (fun t => (t.dt, t.st)) = some (0x3C, 0) := by decide
theorem test_ldStVx : after (.ldStVx 4) (start.setReg 4 5) (fun t => (t.st, t.dt)) = some (5, 0) := by decide
-- I2, I4, I7, I9, I11.
theorem test_ldI : after (.ldI 0xFFF) start (fun t => t.index) = some 0x0FFF := by decide
theorem test_addI_at_threshold : after (.addI 1) ((start.setIndex 0xF0).setReg 1 0x0F) (fun t => (t.index, t.reg 15)) =
    some (0xFF, 0) := by decide
theorem test_addI_wraps : after (.addI 1) ((start.setIndex 0xFFFF).setReg 1 2) (fun t => (t.index, t.reg 15)) =
    some (1, 1) := by decide
theorem test_ldB_top : after (.ldB 2) ((start.setIndex 4093).setReg 2 0x9C)
    (fun t => (t.byte 4093, t.byte 4094, t.byte 4095, t.index)) = some (1, 5, 6, 4093) := by decide
-- I12.
theorem test_ldB_out_of_range : after (.ldB 2) ((start.setIndex 4094).setReg 2 0x9C)
    (fun t => (t.fault, t.mem, t.faultOpcode)) = some (some .memOutOfRange, [], 0xF233) := by decide

/-- The registers 11 22 33 44 of I13. -/
def block : State := ((((start.setIndex 0x300).setReg 0 0x11).setReg 1 0x22).setReg 2 0x33).setReg 3 0x44

-- I13, I19, I17, I21.
theorem test_stRegs : after (.stRegs 3) block (fun t => (t.mem, t.index)) =
    some ([(0x300, 0x11), (0x301, 0x22), (0x302, 0x33), (0x303, 0x44)], 0x304) := by decide
theorem test_stRegs_out_of_range : after (.stRegs 1) (block.setIndex 4095) (fun t => (t.fault, t.mem, t.index)) =
    some (some .memOutOfRange, [], 4095) := by decide
theorem test_ldRegs_vf_and_toggle : after (.ldRegs 15) { modern.setIndex 0x400 with mem := [(0x40F, 9)] }
    (fun t => (t.reg 15, t.reg 14, t.index)) = some (9, 0, 0x400) := by decide
theorem test_ldRegs_no_wrap : after (.ldRegs 7) (start.setIndex 0xFFF8) (fun t => (t.fault, t.index)) =
    some (some .memOutOfRange, 0xFFF8) := by decide

/-! ### The cycle and the agents -/

-- M1, S3: the first instruction after reset is fetched high byte first at 0x200 and runs.
theorem test_step_runs_word : stepped (State.reset.withFetchWord 16 0x600A) (fun t => (t.reg 0, t.pc)) =
    some (0x0A, 0x202) := by decide
theorem test_step_ret_after_reset : stepped (State.reset.withFetchWord 16 0x00EE)
    (fun t => (faultCode t.fault, t.faultAddr, t.faultOpcode, t.pc)) = some (3, 0x200, 0x00EE, 0x202) := by decide
-- M2, M4.
theorem test_step_last_word : stepped { State.reset.setPc 0xFFE with mem := [(0xFFE, 0x60), (0xFFF, 0x55)] }
    (fun t => (t.reg 0, t.pc)) = some (0x55, 0x1000) := by decide
theorem test_step_fetch_out_of_range : stepped (State.reset.setPc 0xFFF)
    (fun t => (faultCode t.fault, t.faultAddr, t.faultOpcode, t.pc)) = some (1, 0xFFF, 0, 0xFFF) := by decide
-- P8 (a), both policies.
theorem test_step_illegal : stepped State.reset (fun t => (faultCode t.fault, t.faultAddr, t.faultOpcode, t.pc)) =
    some (2, 0x200, 0, 0x202) := by decide
theorem test_step_skip_policy : stepped (State.resetWith defaultQuirks { defaultParams with illegalPolicy := .skip })
    (fun t => (t.fault, t.pc)) = some (none, 0x202) := by decide
-- T16, T17, T20.
theorem test_tick : stepped { start with dt := 0x3C, st := 1, schedule := [.tick, .cpu] } (fun t => (t.dt, t.st, t.schedule)) =
    some (0x3B, 0, [.cpu]) := by decide
theorem test_tick_floor : stepped { start with schedule := [.tick] } (fun t => (t.dt, t.st)) = some (0, 0) := by decide
theorem test_setKey : stepped { start with key := some 9, schedule := [.setKey none] } (fun t => t.key) = some none := by decide
theorem test_load : stepped { State.reset with schedule := [.loadProgram [0x12, 0x34]] }
    (fun t => (t.byte 0x200, t.byte 0x201, t.pc, t.loadable)) = some (0x12, 0x34, 0x200, false) := by decide
-- R242: after a failed load a tick is still taken, a cycle is not, and a reset lifts the bar.
theorem test_failed_load_ticks : stepped { State.reset.failLoad with dt := 2, schedule := [.tick] }
    (fun t => (t.dt, t.loadFailed)) = some (1, true) := by decide
theorem test_failed_load_bars_cycle : step State.reset.failLoad = .fault .romLoadError := by rfl
theorem test_failed_load_reset : stepped { State.reset.failLoad with schedule := [.reset defaultQuirks defaultParams] }
    (fun t => (t.loadable, t.loadFailed, t.pc)) = some (true, false, 0x200) := by decide
-- The font after reset: glyph 7 at 0x073 (10_state.md R47).
theorem test_reset_font : (List.range 7).map (fun k => State.reset.byte (0x072 + k)) = [0xF0, 0xF0, 0x10, 0x20, 0x40, 0x40, 0xF0] := by
  decide

/-! ### Witnesses: a state and operands that meet the hypotheses of each statement -/

theorem test_witness_DecodeEncodeRoundTrip : Instr.wellFormed (.jpOff 15 0xFFF) = true := by decide
theorem test_witness_EncodeDecodeRoundTrip : decodeWord 0xBFFF = .ok (.jpOff 15 0xFFF) := by rfl
theorem test_witness_DecodeSelectsTheOpcodeRow :
    (⟨"DRW", 0xF000, 0xD000⟩ : OpcodeRow) ∈ opcodeRows ∧ OpcodeRow.covers ⟨"DRW", 0xF000, 0xD000⟩ 0xD015 = true := by decide
/-- A JP just after reset. -/
def placed : State := State.reset.withFetchWord 16 0x1234
theorem test_witness_StepRunsDecodedInstruction : placed.nextMove = .cpu ∧ placed.fault = none ∧
    placed.loadFailed = false ∧ placed.pc.toNat ≤ 4094 ∧
    decode (placed.byte placed.pc.toNat :: placed.byte (placed.pc.toNat + 1) :: []) = .ok (.jp 0x234, []) :=
  ⟨rfl, rfl, rfl, by decide, rfl⟩
theorem test_witness_FetchOutOfRangeFaults : (State.reset.setPc 4095).nextMove = .cpu ∧
    (State.reset.setPc 4095).fault = none ∧ (State.reset.setPc 4095).loadFailed = false ∧ 4095 ≤ (State.reset.setPc 4095).pc.toNat := by decide
theorem test_witness_UnrecognizedWordFollowsThePolicy : State.reset.nextMove = .cpu ∧ State.reset.fault = none ∧
    State.reset.loadFailed = false ∧
    State.reset.pc.toNat ≤ 4094 ∧ decode [State.reset.byte 0x200, State.reset.byte 0x201] = .error .group0 ∧
    State.reset.params.illegalPolicy = .fault := ⟨rfl, rfl, rfl, by decide, rfl, rfl⟩
theorem test_witness_UnrecognizedWordFollowsThePolicy_skip :
    (State.resetWith defaultQuirks { defaultParams with illegalPolicy := .skip }).params.illegalPolicy = .skip := by decide
/-- A core halted by a fetch at 4095. -/
def halted : State := (State.reset.setPc 4095).raise .fetchOutOfRange 4095 0
theorem test_witness_HaltedCoreRunsNoCycle : halted.nextMove = .cpu ∧ halted.fault = some .fetchOutOfRange := by decide
theorem test_witness_OnlyResetEndsAHalt : halted.fault ≠ none ∧
    (∀ q p, ({ halted with schedule := [.tick] } : State).nextMove ≠ .reset q p) ∧
    step { halted with schedule := [.tick] } = .next halted.tick :=
  ⟨by decide, (fun _ _ h => by cases h), rfl⟩
theorem test_witness_TickLowersBothTimers : ({ halted with schedule := [.tick] } : State).nextMove = .tick := by decide
theorem test_witness_KeyAndDisplayHostSteps : ({ start with schedule := [.setKey (some 15)] } : State).nextMove = .setKey (some 15) ∧
    ({ start with schedule := [.getFramebuffer] } : State).nextMove = .getFramebuffer := by decide
/-- A load of one image byte right after reset. -/
def loading : State := { State.reset with schedule := [.loadProgram [0x12]] }
theorem test_witness_LoadProgramCopiesTheImage : loading.nextMove = .loadProgram [0x12] ∧ loading.loadable = true ∧
    [(0x12 : Byte)].length ≤ 3584 ∧ Memory.wf loading.params.fontRom loading.mem = true := by decide
theorem test_witness_LoadProgramCopiesTheImage_largest : (List.replicate 3584 (0 : Byte)).length ≤ 3584 ∧
    3584 < (List.replicate 3585 (0 : Byte)).length :=
  ⟨Nat.le_of_eq List.length_replicate, Nat.lt_of_lt_of_eq (Nat.lt_succ_self 3584) List.length_replicate.symm⟩
theorem test_witness_LoadProgramCopiesTheImage_late : ({ loading with loadable := false } : State).loadable = false := by decide
/-- A machine whose load has failed, with a timer running. -/
def unloaded : State := { State.reset with loadable := false, loadFailed := true, dt := 2 }
theorem test_witness_FailedLoadBarsEveryCycle : unloaded.nextMove = .cpu ∧ unloaded.fault = none ∧
    unloaded.loadFailed = true ∧ unloaded.loadable = false := by decide
theorem test_witness_FailedLoadBarsEveryCycle_tick : ({ unloaded with schedule := [.tick] } : State).nextMove ≠ .cpu ∧
    (∀ image, ({ unloaded with schedule := [.tick] } : State).nextMove ≠ .loadProgram image) ∧
    (∀ q p, ({ unloaded with schedule := [.tick] } : State).nextMove ≠ .reset q p) :=
  ⟨by decide, (fun _ h => by cases h), (fun _ _ h => by cases h)⟩
theorem test_witness_FailedLoadBarsEveryCycle_load : unloaded.loadFailed = true ∧ unloaded.loadable = false ∧
    ({ unloaded with schedule := [.loadProgram []] } : State).nextMove = .loadProgram [] := by decide
theorem test_witness_ResetLeavesTheResetTable :
    ({ halted with schedule := [.reset defaultQuirks defaultParams] } : State).nextMove = .reset defaultQuirks defaultParams := by
  decide
theorem test_witness_JpGoesToTheLiteral : (0x1FFF : Word).toNat / 4096 = 1 := by decide
theorem test_witness_JpOffAddsTheRegisterUnderItsToggle : (0xBFFF : Word).toNat / 4096 = 0xB := by decide
theorem test_witness_RegisterSkips : (15 : Nibble) ≠ 0 := by decide
theorem test_witness_LdILoadsTheLiteral : ∃ t, exec (.addI 1) ((start.setIndex 0xFFFF).setReg 1 1) = .next t ∧
    t.index.toNat < ((start.setIndex 0xFFFF).setReg 1 1).index.toNat := ⟨_, rfl, by decide⟩
theorem test_witness_LdILoadsTheLiteral_load : ∃ t, exec (.ldI 0xFFF) (start.setIndex 0x1000) = .next t ∧
    t.index.toNat < (start.setIndex 0x1000).index.toNat := ⟨_, rfl, by decide⟩
theorem test_witness_CallPushesAndRetPops :
    ({ start with stack := List.replicate 15 0x202 } : State).stack.length < start.params.stackDepth ∧
    ({ start with stack := [0x204] } : State).stack = [0x204] := by decide
theorem test_witness_StackFaultsChangeOnlyTheRecord : start.stack = [] ∧
    start.params.stackDepth ≤ ({ start with stack := List.replicate 16 0x202 } : State).stack.length := by decide
theorem test_witness_CallThenRetResumes : ∃ s t u : State, s.stack.length < s.params.stackDepth ∧
    exec (.call 0x300) s = .next t ∧ u.stack = t.stack :=
  ⟨start, _, _, by decide, rfl, rfl⟩
theorem test_witness_ShiftsTakeTheirValueByTheToggle : ∃ value : Nat, value =
    (if modern.quirks.shift = false then (modern.reg 2).toNat else ((modern.setReg 1 0x81).reg 1).toNat) ∧ value = 0x81 :=
  ⟨0x81, by decide, rfl⟩
theorem test_witness_ShiftsTakeTheirValueByTheToggle_off : ∃ value : Nat, value =
    (if start.quirks.shift = false then ((start.setReg 2 0x40).reg 2).toNat else (start.reg 1).toNat) ∧ value = 0x40 :=
  ⟨0x40, by decide, rfl⟩
theorem test_witness_DrwTurnsOverTheSpritesCells : (3 : Nibble) = 0 ∨ (sprite.setIndex 4093).index.toNat + (3 : Nibble).toNat - 1 ≤ 4095 := by
  decide
theorem test_witness_DrwTurnsOverTheSpritesCells_zero : (0 : Nibble) = 0 ∨ (sprite.setIndex 0xFFFF).index.toNat + (0 : Nibble).toNat - 1 ≤ 4095 := by
  decide
theorem test_witness_Collides_holds : Claims.Collides (sprite.setFb (Framebuffer.flip Framebuffer.clear 7 1)) 0 1 3 :=
  ⟨7, 1, by decide, by decide, by decide, by decide⟩
theorem test_witness_Collides_fails : ¬ Claims.Collides sprite 0 1 0 := by
  rintro ⟨col, row, _, _, h, _⟩
  simp [Claims.spriteBit] at h
  omega
theorem test_witness_DrawingTwiceRestoresTheDisplay : ∃ t, exec (.drw 0 1 3) sprite = .next t ∧ t.reg 0 = sprite.reg 0 ∧
    t.reg 1 = sprite.reg 1 ∧ Claims.spriteBit sprite 0 1 3 0 0 = true ∧ sprite.pixel 0 0 = false :=
  ⟨_, rfl, by decide, by decide, by decide, by decide⟩
theorem test_witness_WaitForKeySpinsOrStores : start.key = none ∧ (start.setKey (some 15)).key = some 15 := by decide
theorem test_witness_LdBStoresTheDigits : (start.setIndex 4093).index.toNat + 2 ≤ 4095 ∧
    Memory.wf start.params.fontRom start.mem = true := by decide
theorem test_witness_StRegsStoresTheBlock : (start.setIndex 4080).index.toNat + (15 : Reg).toNat ≤ 4095 ∧
    Memory.wf start.params.fontRom start.mem = true := by decide
theorem test_witness_LdRegsLoadsTheBlock : (start.setIndex 4095).index.toNat + (0 : Reg).toNat ≤ 4095 := by decide
theorem test_witness_StoredRegistersLoadBack : ∃ t u : State, block.index.toNat + (3 : Reg).toNat ≤ 4095 ∧
    Memory.wf block.params.fontRom block.mem = true ∧ exec (.stRegs 3) block = .next t ∧ u.mem = t.mem ∧
    u.params = t.params ∧ u.index = block.index :=
  ⟨_, ((block.setReg 0 0).setReg 1 0).setIndex 0x300 |> fun u =>
    { u with mem := [(0x300, 0x11), (0x301, 0x22), (0x302, 0x33), (0x303, 0x44)] }, by decide, by decide, rfl, by decide, rfl, rfl⟩
theorem test_witness_DataOutOfRangeChangesOnlyTheRecord : (1 : Nibble) ≠ 0 ∧
    4095 < (start.setIndex 4096).index.toNat + (1 : Nibble).toNat - 1 ∧ 4095 < (start.setIndex 4094).index.toNat + 2 ∧
    4095 < (start.setIndex 4095).index.toNat + (1 : Reg).toNat := by decide
/-- Registers about to be stored over the low byte alone of the word `pc` points at. -/
def overwriting : State := (block.setIndex 0x203).setPc 0x202
theorem test_witness_StoredBytesAreFetchedNext : ∃ t, overwriting.index.toNat + (3 : Reg).toNat ≤ 4095 ∧
    Memory.wf overwriting.params.fontRom overwriting.mem = true ∧ exec (.stRegs 3) overwriting = .next t ∧
    overwriting.pc.toNat ≤ 4094 := ⟨_, by decide, by decide, rfl, by decide⟩
theorem test_witness_StoredBytesAreFetchedNext_digits : ∃ t, overwriting.index.toNat + 2 ≤ 4095 ∧
    exec (.ldB 3) overwriting = .next t := ⟨_, by decide, rfl⟩
-- P7: the word the next fetch reads, the high byte old and the low byte stored, and a word of two digits.
theorem test_fetch_after_store : (after (.stRegs 3) overwriting State.fetch).bind (fun r => r.map (·.1)) =
    some 0x0011 := by decide
theorem test_fetch_after_digits : (after (.ldB 2) (((start.setIndex 0x201).setReg 2 0x9C)) State.fetch).bind
    (fun r => r.map (·.1)) = some 0x0506 := by decide
theorem test_witness_FaultsAreTheTablesAndPrecise : ∃ t, start.fault = none ∧ exec .ret start = .next t ∧
    Claims.faultOf .ret start = some .stackUnderflow := ⟨_, rfl, rfl, by decide⟩
theorem test_witness_PcAfterEveryInstruction : ∃ t, 2 ≤ start.pc.toNat ∧ start.pc.toNat ≤ 4096 ∧
    exec (.jp 0x234) start = .next t ∧ Claims.faultOf (.jp 0x234) start = none := ⟨_, by decide, by decide, rfl, by decide⟩
theorem test_witness_PcAfterEveryInstruction_fault : ∃ t, exec .ret start = .next t ∧ Claims.faultOf .ret start ≠ none :=
  ⟨_, rfl, by decide⟩
theorem test_witness_RegistersChangeOnlyAsListed : ∃ t, exec (.addReg 1 2) start = .next t ∧
    Claims.writesData (.addReg 1 2) 3 = false ∧ ((3 : Reg) = vF → Claims.writesFlag (.addReg 1 2) = false) :=
  ⟨_, rfl, by decide, by decide⟩
theorem test_witness_FlagsAreZeroOrOne : ∃ t, Claims.writesFlag (.addReg 15 2) = true ∧
    Claims.faultOf (.addReg 15 2) start = none ∧ exec (.addReg 15 2) start = .next t := ⟨_, by decide, by decide, rfl⟩
theorem test_witness_OnlyNamedInstructionsWriteEachState : ∃ t, exec (.jp 0x234) start = .next t ∧
    (Instr.jp 0x234).mnemonic ∉ ["LD_B", "ST_REGS"] := ⟨_, rfl, by decide⟩
theorem test_witness_StoresTouchOnlyTheirOwnBytes : ∃ t, exec (.stRegs 3) block = .next t ∧
    (0x304 < block.index.toNat ∨ block.index.toNat + (3 : Reg).toNat < 0x304) := ⟨_, rfl, by decide⟩
theorem test_witness_StoresTouchOnlyTheirOwnBytes_digits : ∃ t, exec (.ldB 3) block = .next t ∧
    (0x2FF < block.index.toNat ∨ block.index.toNat + 2 < 0x2FF) := ⟨_, rfl, by decide⟩
/-- A state that agrees with `block` on what the stores read, and not in VF, `pc`, DT and the key latch. -/
def otherwise : State := { (block.setReg 15 0xFF).setPc 0x300 with dt := 9, key := some 1 }
theorem test_witness_StoresTouchOnlyTheirOwnBytes_operands : ∃ t t', otherwise.index = block.index ∧
    otherwise.mem = block.mem ∧ otherwise.params.fontRom = block.params.fontRom ∧ otherwise.reg 3 = block.reg 3 ∧
    exec (.ldB 3) block = .next t ∧ exec (.ldB 3) otherwise = .next t' := ⟨_, _, rfl, rfl, rfl, by decide, rfl, rfl⟩
theorem test_witness_StoresTouchOnlyTheirOwnBytes_block : ∃ t t', (∀ y : Reg, y.toNat ≤ (3 : Reg).toNat →
    otherwise.reg y = block.reg y) ∧ exec (.stRegs 3) block = .next t ∧ exec (.stRegs 3) otherwise = .next t' :=
  ⟨_, _, by decide, rfl, rfl⟩
theorem test_witness_TicksCommuteWithOtherInstructions : ∃ t, exec (.jp 0x234) start = .next t ∧
    (Instr.jp 0x234).mnemonic ∉ ["LD_VX_DT", "LD_DT_VX", "LD_ST_VX"] := ⟨_, rfl, by decide⟩
theorem test_witness_KeyUpdatesCommuteWithOtherInstructions : ∃ t, exec (.ldImm 1 2) start = .next t ∧
    (Instr.ldImm 1 2).mnemonic ∉ ["SKP", "SKNP", "LD_VX_K"] := ⟨_, rfl, by decide⟩
theorem test_witness_ConfigurationIsFixedBetweenResets : ∃ t, (∀ q p, placed.nextMove ≠ .reset q p) ∧ step placed = .next t :=
  ⟨_, (fun _ _ h => by cases h), rfl⟩
/-- A timer tick to come right after reset. -/
def ticking : State := { State.reset with schedule := [.tick] }
theorem test_witness_EveryStepKeepsTheInvariant_inv : ticking.Inv where
  mem := rfl
  depth := Nat.zero_le _
  returns := fun _ h => nomatch h
  pc := by decide
  record := rfl
  unstarted := fun _ => rfl
  oneLoad := fun h => nomatch h
theorem test_witness_EveryStepKeepsTheInvariant_step : step ticking = .next ticking.moveTaken.tick := by
  have h : ticking.nextMove = .tick := rfl
  simp only [step, h, runMove]
theorem test_witness_RunsStayWithinTheBounds : Runs ticking ticking.moveTaken.tick :=
  .step (.none _) test_witness_EveryStepKeepsTheInvariant_step

end Sys2Proof.Tests
end

section
/-!
PROOFS. The state after construction (10_state.md): what each accessor reads there, for every setting of the arguments.
-/
namespace Sys2Proof.Machine

/-- A cleared grid reads false at every coordinate, those outside the grid included (10_state.md R50). -/
@[simp] theorem Framebuffer.cell_clear (x y : Nat) : Framebuffer.cell Framebuffer.clear x y = false := by
  by_cases inside : x < 64 ∧ y < 32
  · obtain ⟨hx, hy⟩ := inside
    simp [Framebuffer.cell, Framebuffer.clear, hx, hy]
  · exact Framebuffer.cell_outside _ (by omega)

section Construction
variable (q : Quirks) (p : Params)

@[simp] theorem State.resetWith_v : (State.resetWith q p).v = Vector.replicate 16 0 := rfl
@[simp] theorem State.resetWith_stack : (State.resetWith q p).stack = [] := rfl
@[simp] theorem State.resetWith_fb : (State.resetWith q p).fb = Framebuffer.clear := rfl

@[simp] theorem State.reg_resetWith (x : Reg) : (State.resetWith q p).reg x = 0 := by
  simp only [State.reg, State.resetWith_v, Vector.getElem_replicate]

@[simp] theorem State.pixel_resetWith (x y : Nat) : (State.resetWith q p).pixel x y = false := by
  rw [State.pixel, State.resetWith_fb, Framebuffer.cell_clear]

end Construction

/-- Settles O15: one reading of each of the three parts, at every register and at every cell. -/
theorem constructionClearsRegistersStackAndDisplay : Obligations.ConstructionClearsRegistersStackAndDisplay := by
  intro q p
  refine ⟨State.reg_resetWith q p, ?_, ?_⟩
  · rw [State.resetWith_stack, List.length_nil]
  · intro col row _ _
    exact State.pixel_resetWith q p col row

end Sys2Proof.Machine
end

section
/-!
PROOFS. JP (40_flow.md R131). The rules it shares with the other instructions of the form `G NNN`: the group and the NNN of
a word as quotient and remainder by 4096, a literal as a word, a jump's frame, and a fetch from above 4094.
-/
namespace Sys2Proof

@[simp] theorem toNat_opG (w : Word) : (opG w).toNat = w.toNat / 4096 := by
  have hw : w.toNat < 65536 := w.isLt
  rw [opG, BitVec.extractLsb'_toNat, Nat.shiftRight_eq_div_pow, Nat.mod_eq_of_lt (by omega)]

@[simp] theorem toNat_opNNN (w : Word) : (opNNN w).toNat = w.toNat % 4096 := by
  rw [opNNN, BitVec.extractLsb'_toNat, Nat.shiftRight_zero]

theorem opG_eq_of_toNat_div {w : Word} {g : BitVec 4} (h : w.toNat / 4096 = g.toNat) : opG w = g :=
  BitVec.eq_of_toNat_eq ((toNat_opG w).trans h)

theorem decodeWord_jp {w : Word} (h : opG w = 0x1#4) : decodeWord w = .ok (.jp (opNNN w)) := by
  simp [decodeWord, h]

end Sys2Proof

namespace Sys2Proof.Machine
open Sys2Proof.Claims

/-- A literal loses nothing by widening (30_encoding.md R102). -/
@[simp] theorem toNat_literalWord (nnn : Addr) : (literalWord nnn).toNat = nnn.toNat :=
  BitVec.toNat_setWidth_of_le (by decide)

section Jumping
variable (s : State)

theorem onlyPc_setPc (t : Word) : OnlyPc s (s.setPc t) :=
  ⟨rfl, State.setPc_byte s t⟩

/-- No word can be fetched from 4095 on (20_memory.md R80). -/
theorem State.fetch_eq_none (h : 4095 ≤ s.pc.toNat) : s.fetch = none := by
  obtain ⟨hle, -⟩ | ⟨-, e⟩ := s.fetch_eq
  · omega
  · exact e

theorem exec_jp (nnn : Addr) : exec (.jp nnn) s = .next (s.setPc (literalWord nnn)) := rfl

end Jumping

/-- Settles O16: a word of group 1 decodes to JP of its NNN, and JP only sets `pc`, to the widened literal; 0xFFF lies above
the last address a fetch can start from. -/
theorem jpGoesToTheLiteral : Obligations.JpGoesToTheLiteral := by
  refine ⟨fun w hw => ⟨opNNN w, toNat_opNNN w, decodeWord_jp (opG_eq_of_toNat_div hw)⟩, fun nnn s => ?_⟩
  refine ⟨s.setPc (literalWord nnn), exec_jp s nnn, toNat_literalWord nnn, onlyPc_setPc s _, ?_⟩
  rintro rfl
  exact State.fetch_eq_none _ (by decide : 4095 ≤ (literalWord 0xFFF).toNat)

end Sys2Proof.Machine
end

section
/-!
PROOFS. SE_IMM and SNE_IMM (41_skip.md R140, R141): groups 3 and 4 of the decoder, and what holds of every instruction
that skips on a condition.
-/
namespace Sys2Proof

theorem decodeWord_seImm {w : Word} (h : opG w = 0x3#4) : decodeWord w = .ok (.seImm (opX w) (opNN w)) := by
  simp [decodeWord, h]

theorem decodeWord_sneImm {w : Word} (h : opG w = 0x4#4) : decodeWord w = .ok (.sneImm (opX w) (opNN w)) := by
  simp [decodeWord, h]

theorem decodeWord_formXNN_seImm (x : Reg) (nn : Byte) : decodeWord (formXNN 0x3#4 x nn) = .ok (.seImm x nn) := by
  rw [decodeWord_seImm (opG_formXNN _ x nn), opX_formXNN, opNN_formXNN]

theorem decodeWord_formXNN_sneImm (x : Reg) (nn : Byte) : decodeWord (formXNN 0x4#4 x nn) = .ok (.sneImm x nn) := by
  rw [decodeWord_sneImm (opG_formXNN _ x nn), opX_formXNN, opNN_formXNN]

end Sys2Proof

namespace Sys2Proof.Machine
open Sys2Proof.Claims

section Skipping
variable (s : State)

@[simp] theorem State.skipIf_pc (c : Bool) : (s.skipIf c).pc = if c then s.pc + 2 else s.pc := by
  rw [State.skipIf_eq, State.setPc_pc]

theorem onlyPc_skipIf (c : Bool) : OnlyPc s (s.skipIf c) := by
  rw [State.skipIf_eq]
  exact onlyPc_setPc s _

theorem exec_seImm (x : Reg) (nn : Byte) : exec (.seImm x nn) s = .next (s.skipIf (s.reg x == nn)) := rfl

theorem exec_sneImm (x : Reg) (nn : Byte) : exec (.sneImm x nn) s = .next (s.skipIf (s.reg x != nn)) := rfl

end Skipping

/-- An instruction that means a skip on `c` skips exactly under the condition `c` tests, and changes `pc` alone. -/
theorem skips_of_exec_eq_skipIf {i : Instr} {s : State} {c : Bool} {P : Prop} [Decidable P]
    (he : exec i s = .next (s.skipIf c)) (hc : c = true ↔ P) :
    ∃ t, exec i s = .next t ∧ t.pc = (if P then s.pc + 2 else s.pc) ∧ OnlyPc s t := by
  refine ⟨s.skipIf c, he, ?_, onlyPc_skipIf s c⟩
  simp only [State.skipIf_pc, hc]

/-- Settles O21: groups 3 and 4 decode to the two literal skips, and each is a skip on its own test of `V[X]`, VF like any
other register. -/
theorem literalSkips : Obligations.LiteralSkips := by
  refine ⟨fun x nn => ⟨decodeWord_formXNN_seImm x nn, decodeWord_formXNN_sneImm x nn⟩, fun x nn s => ⟨?_, ?_⟩⟩
  · exact skips_of_exec_eq_skipIf (exec_seImm s x nn) beq_iff_eq
  · exact skips_of_exec_eq_skipIf (exec_sneImm s x nn) bne_iff_ne

end Sys2Proof.Machine
end

section
/-!
PROOFS. LD_IMM and ADD_IMM (42_const.md R150, R151): groups 6 and 7 of the decoder, and what holds of every instruction
that means a write of one register.
-/
namespace Sys2Proof

theorem decodeWord_ldImm {w : Word} (h : opG w = 0x6#4) : decodeWord w = .ok (.ldImm (opX w) (opNN w)) := by
  simp [decodeWord, h]

theorem decodeWord_addImm {w : Word} (h : opG w = 0x7#4) : decodeWord w = .ok (.addImm (opX w) (opNN w)) := by
  simp [decodeWord, h]

theorem decodeWord_formXNN_ldImm (x : Reg) (nn : Byte) : decodeWord (formXNN 0x6#4 x nn) = .ok (.ldImm x nn) := by
  rw [decodeWord_ldImm (opG_formXNN _ x nn), opX_formXNN, opNN_formXNN]

theorem decodeWord_formXNN_addImm (x : Reg) (nn : Byte) : decodeWord (formXNN 0x7#4 x nn) = .ok (.addImm x nn) := by
  rw [decodeWord_addImm (opG_formXNN _ x nn), opX_formXNN, opNN_formXNN]

end Sys2Proof

namespace Sys2Proof.Machine
open Sys2Proof.Claims

section RegisterWrite
variable (s : State) (x : Reg)

theorem State.reg_setReg_same (b : Byte) : (s.setReg x b).reg x = b := by
  rw [State.reg_setReg, if_pos rfl]

theorem otherRegs_setReg (b : Byte) : OtherRegs x s (s.setReg x b) := by
  intro y hy
  rw [State.reg_setReg, if_neg hy]

theorem onlyRegs_setReg (b : Byte) : OnlyRegs s (s.setReg x b) :=
  ⟨rfl, State.setReg_byte s x b⟩

theorem exec_ldImm (nn : Byte) : exec (.ldImm x nn) s = .next (s.setReg x nn) := rfl

theorem exec_addImm (nn : Byte) : exec (.addImm x nn) s = .next (s.setReg x (s.reg x + nn)) := rfl

end RegisterWrite

/-- An instruction that means a write of `b` to `V[X]` leaves `b` there and changes nothing else. -/
theorem writes_of_exec_eq_setReg {i : Instr} {s : State} {x : Reg} {b : Byte} (he : exec i s = .next (s.setReg x b)) :
    ∃ t, exec i s = .next t ∧ t.reg x = b ∧ OtherRegs x s t ∧ OnlyRegs s t :=
  ⟨s.setReg x b, he, State.reg_setReg_same s x b, otherRegs_setReg s x b, onlyRegs_setReg s x b⟩

/-- Settles O23: groups 6 and 7 decode to LD_IMM and ADD_IMM, and each only writes `V[X]`, VF like any other register; a
sum of bytes is the sum of their values modulo 256. -/
theorem literalLoadAndAdd : Obligations.LiteralLoadAndAdd := by
  refine ⟨fun x nn => ⟨decodeWord_formXNN_ldImm x nn, decodeWord_formXNN_addImm x nn⟩, fun x nn s => ⟨?_, ?_⟩⟩
  · exact writes_of_exec_eq_setReg (exec_ldImm s x nn)
  · obtain ⟨t, he, hx, frame⟩ := writes_of_exec_eq_setReg (exec_addImm s x nn)
    exact ⟨t, he, by rw [hx, BitVec.toNat_add], frame⟩

end Sys2Proof.Machine
end

section
/-!
PROOFS. ADD_REG (43_alu.md R165). The rules it shares with every instruction of the arithmetic family that writes VF: group 8
of the decoder, and what holds of an instruction that means a data result and then a flag (R170).
-/
namespace Sys2Proof

/-- Group 8 leaves the choice to the low nibble alone (30_encoding.md R103). -/
theorem decodeWord_formXYN_group8 (x y : Reg) (n : Nibble) :
    decodeWord (formXYN 0x8#4 x y n) = decodeGroup8 (formXYN 0x8#4 x y n) := by
  simp [decodeWord]

theorem decodeWord_formXYN_addReg (x y : Reg) : decodeWord (formXYN 0x8#4 x y 0x4#4) = .ok (.addReg x y) := by
  rw [decodeWord_formXYN_group8]
  simp [decodeGroup8]

end Sys2Proof

namespace Sys2Proof.Machine
open Sys2Proof.Claims

theorem flagByte_decide (P : Prop) [Decidable P] : flagByte (decide P) = if P then 1 else 0 := by
  simp only [flagByte, decide_eq_true_eq]

theorem flagByte_carry (a b : Byte) : flagByte (carry a b) = if a.toNat + b.toNat > 255 then 1 else 0 :=
  flagByte_decide _

section ResultWrite
variable (s : State) (x : Reg) (b : Byte) (c : Bool)

theorem State.reg_setResult_flag : (s.setResult x b c).reg vF = flagByte c := by
  rw [State.reg_setResult, if_pos rfl]

theorem State.reg_setResult_data (h : x ≠ vF) : (s.setResult x b c).reg x = b := by
  rw [State.reg_setResult, if_neg h, if_pos rfl]

theorem otherRegsButFlag_setResult : OtherRegsButFlag x s (s.setResult x b c) := by
  intro y hx hf
  rw [State.reg_setResult, if_neg hf, if_neg hx]

theorem onlyRegs_setResult : OnlyRegs s (s.setResult x b c) :=
  ⟨rfl, State.setResult_byte s x b c⟩

end ResultWrite

/-- An instruction that means the result `b` for `V[X]` and the flag `c` leaves `b` there unless VF is the destination, the
flag in VF in every case, and changes nothing else (43_alu.md R170, 10_state.md R39). -/
theorem results_of_exec_eq_setResult {i : Instr} {s : State} {x : Reg} {b : Byte} {c : Bool}
    (he : exec i s = .next (s.setResult x b c)) :
    ∃ t, exec i s = .next t ∧ (x ≠ vF → t.reg x = b) ∧ t.reg vF = flagByte c ∧
      OtherRegsButFlag x s t ∧ OnlyRegs s t :=
  ⟨s.setResult x b c, he, State.reg_setResult_data s x b c, State.reg_setResult_flag s x b c,
    otherRegsButFlag_setResult s x b c, onlyRegs_setResult s x b c⟩

theorem exec_addReg (x y : Reg) (s : State) :
    exec (.addReg x y) s = .next (s.setResult x (s.reg x + s.reg y) (carry (s.reg x) (s.reg y))) := rfl

/-- Settles O26: `8XY4` decodes to ADD_REG, which means the sum and the carry of the old values; a sum of bytes is the sum of
their values modulo 256. -/
theorem addRegSetsCarry : Obligations.AddRegSetsCarry := by
  refine ⟨decodeWord_formXYN_addReg, fun x y s => ?_⟩
  obtain ⟨t, he, hdata, hflag, frame⟩ := results_of_exec_eq_setResult (exec_addReg x y s)
  refine ⟨t, he, fun hx => ?_, hflag.trans (flagByte_carry _ _), frame⟩
  rw [hdata hx, BitVec.toNat_add]

end Sys2Proof.Machine
end

section
/-!
PROOFS. SUB and SUBN (43_alu.md R166, R168): one subtraction, with the operands one way round and the other.
-/
namespace Sys2Proof

theorem decodeWord_formXYN_sub (x y : Reg) : decodeWord (formXYN 0x8#4 x y 0x5#4) = .ok (.sub x y) := by
  rw [decodeWord_formXYN_group8]
  simp [decodeGroup8]

theorem decodeWord_formXYN_subn (x y : Reg) : decodeWord (formXYN 0x8#4 x y 0x7#4) = .ok (.subn x y) := by
  rw [decodeWord_formXYN_group8]
  simp [decodeGroup8]

end Sys2Proof

namespace Sys2Proof.Machine
open Sys2Proof.Claims

theorem flagByte_noBorrow (a b : Byte) : flagByte (noBorrow a b) = if a.toNat ≥ b.toNat then 1 else 0 :=
  flagByte_decide _

/-- The difference of two bytes is the integer difference of their values modulo 256. -/
theorem toNat_sub_emod (a b : Byte) : ((a - b).toNat : Int) = (a.toNat - b.toNat : Int) % 256 := by
  have ha : a.toNat < 256 := a.isLt
  have hb : b.toNat < 256 := b.isLt
  rw [BitVec.toNat_sub]
  omega

/-- An instruction that means `a - b` for `V[X]` and its absence of a borrow leaves that difference modulo 256 unless VF is
the destination, 1 in VF exactly when `a` is no less than `b`, and changes nothing else. -/
theorem subtracts_of_exec_eq_setResult {i : Instr} {s : State} {x : Reg} {a b : Byte}
    (he : exec i s = .next (s.setResult x (a - b) (noBorrow a b))) :
    ∃ t, exec i s = .next t ∧ (x ≠ vF → ((t.reg x).toNat : Int) = (a.toNat - b.toNat : Int) % 256) ∧
      t.reg vF = (if a.toNat ≥ b.toNat then 1 else 0) ∧ OtherRegsButFlag x s t ∧ OnlyRegs s t := by
  obtain ⟨t, he, hdata, hflag, frame⟩ := results_of_exec_eq_setResult he
  refine ⟨t, he, fun hx => ?_, hflag.trans (flagByte_noBorrow a b), frame⟩
  rw [hdata hx, toNat_sub_emod]

theorem exec_sub (x y : Reg) (s : State) :
    exec (.sub x y) s = .next (s.setResult x (s.reg x - s.reg y) (noBorrow (s.reg x) (s.reg y))) := rfl

theorem exec_subn (x y : Reg) (s : State) :
    exec (.subn x y) s = .next (s.setResult x (s.reg y - s.reg x) (noBorrow (s.reg y) (s.reg x))) := rfl

/-- Settles O27: `8XY5` and `8XY7` decode to SUB and SUBN, the one subtraction from `V[X]` and from `V[Y]`. -/
theorem subtractsSetNoBorrow : Obligations.SubtractsSetNoBorrow := by
  refine ⟨fun x y => ⟨decodeWord_formXYN_sub x y, decodeWord_formXYN_subn x y⟩, ?_, ?_⟩
  · intro x y s
    exact subtracts_of_exec_eq_setResult (exec_sub x y s)
  · intro x y s
    exact subtracts_of_exec_eq_setResult (exec_subn x y s)

end Sys2Proof.Machine
end

section
/-!
PROOFS. SHR and SHL (43_alu.md R167, R169): the value Q_SHIFT selects, a shift by one as arithmetic, and the bit shifted out.
-/
namespace Sys2Proof

theorem decodeWord_formXYN_shr (x y : Reg) : decodeWord (formXYN 0x8#4 x y 0x6#4) = .ok (.shr x y) := by
  rw [decodeWord_formXYN_group8]
  simp [decodeGroup8]

theorem decodeWord_formXYN_shl (x y : Reg) : decodeWord (formXYN 0x8#4 x y 0xE#4) = .ok (.shl x y) := by
  rw [decodeWord_formXYN_group8]
  simp [decodeGroup8]

end Sys2Proof

namespace Sys2Proof.Machine

/-- The shifts read `V[Y]` with the toggle off and `V[X]` with it on. -/
theorem State.toNat_shiftValue (s : State) (x y : Reg) :
    (s.shiftValue x y).toNat = if s.quirks.shift = false then (s.reg y).toNat else (s.reg x).toNat := by
  cases h : s.quirks.shift <;> simp [State.shiftValue, h]

theorem toNat_flagByte (c : Bool) : (flagByte c).toNat = c.toNat := by
  cases c <;> rfl

theorem toNat_flagByte_lowBit (b : Byte) : (flagByte (lowBit b)).toNat = b.toNat % 2 := by
  rw [toNat_flagByte, lowBit, BitVec.getLsbD, Nat.toNat_testBit, Nat.pow_zero, Nat.div_one]

theorem toNat_flagByte_highBit (b : Byte) : (flagByte (highBit b)).toNat = b.toNat / 128 := by
  have hb : b.toNat < 256 := b.isLt
  rw [toNat_flagByte, highBit, BitVec.getLsbD, Nat.toNat_testBit]
  omega

theorem toNat_ushiftRight_one (b : Byte) : (b >>> 1).toNat = b.toNat / 2 := by
  rw [BitVec.toNat_ushiftRight, Nat.shiftRight_eq_div_pow, Nat.pow_one]

theorem toNat_shiftLeft_one (b : Byte) : (b <<< 1).toNat = b.toNat * 2 % 256 := by
  rw [BitVec.toNat_shiftLeft, Nat.shiftLeft_eq, Nat.pow_one]

theorem exec_shr (x y : Reg) (s : State) :
    exec (.shr x y) s = .next (s.setResult x (s.shiftValue x y >>> 1) (lowBit (s.shiftValue x y))) := rfl

theorem exec_shl (x y : Reg) (s : State) :
    exec (.shl x y) s = .next (s.setResult x (s.shiftValue x y <<< 1) (highBit (s.shiftValue x y))) := rfl

/-- Settles O28: `8XY6` and `8XYE` decode to SHR and SHL, each a shift by one of the value the toggle selects, its flag the
bit that leaves the byte. -/
theorem shiftsTakeTheirValueByTheToggle : Obligations.ShiftsTakeTheirValueByTheToggle := by
  refine ⟨fun x y => ⟨decodeWord_formXYN_shr x y, decodeWord_formXYN_shl x y⟩, fun x y s value hvalue => ?_⟩
  rw [← State.toNat_shiftValue] at hvalue
  subst hvalue
  constructor
  · obtain ⟨t, he, hdata, hflag, frame⟩ := results_of_exec_eq_setResult (exec_shr x y s)
    refine ⟨t, he, fun hx => ?_, ?_, frame⟩
    · rw [hdata hx, toNat_ushiftRight_one]
    · rw [hflag, toNat_flagByte_lowBit]
  · obtain ⟨t, he, hdata, hflag, frame⟩ := results_of_exec_eq_setResult (exec_shl x y s)
    refine ⟨t, he, fun hx => ?_, ?_, frame⟩
    · rw [hdata hx, toNat_shiftLeft_one]
    · rw [hflag, toNat_flagByte_highBit]

end Sys2Proof.Machine
end

section
/-!
PROOFS. CLS (44_display.md R180): group 0 of the decoder, and what a write of the framebuffer leaves unchanged.
-/
namespace Sys2Proof

/-- Group 0 is decided on the whole word (30_encoding.md R103). -/
theorem decodeWord_group0 {w : Word} (h : opG w = 0x0#4) : decodeWord w = decodeGroup0 w :=
  if_pos h

theorem decodeWord_cls : decodeWord 0x00E0#16 = .ok .cls := by
  rw [decodeWord_group0 (by decide)]
  exact if_pos rfl

end Sys2Proof

namespace Sys2Proof.Machine
open Sys2Proof.Claims

section FramebufferWrite
variable (s : State) (g : Framebuffer)

@[simp] theorem State.pixel_setFb (x y : Nat) : (s.setFb g).pixel x y = Framebuffer.cell g x y := rfl

theorem onlyFb_setFb : s.setFb g = { s with fb := (s.setFb g).fb } ∧ SameMemory s (s.setFb g) :=
  ⟨rfl, State.setFb_byte s g⟩

end FramebufferWrite

theorem exec_cls (s : State) : exec .cls s = .next (s.setFb Framebuffer.clear) := rfl

/-- Settles O29: `00E0` decodes to CLS, which only sets the framebuffer, to the cleared grid. -/
theorem clsClearsEveryCell : Obligations.ClsClearsEveryCell := by
  refine ⟨decodeWord_cls, fun s => ⟨s.setFb Framebuffer.clear, exec_cls s, ?_, onlyFb_setFb s _⟩⟩
  intro col row _ _
  rw [State.pixel_setFb, Framebuffer.cell_clear]

end Sys2Proof.Machine
end

section
/-!
PROOFS. LD_VX_K (45_keypad_timers.md R192): group F of the decoder, and its meaning with and without a latched key.
-/
namespace Sys2Proof

/-- Group F leaves the choice to the low byte alone (30_encoding.md R103). -/
theorem decodeWord_formXNN_groupF (x : Reg) (nn : Byte) :
    decodeWord (formXNN 0xF#4 x nn) = decodeGroupF (formXNN 0xF#4 x nn) := by
  simp [decodeWord]

theorem decodeWord_formXNN_ldVxK (x : Reg) : decodeWord (formXNN 0xF#4 x 0x0A#8) = .ok (.ldVxK x) := by
  rw [decodeWord_formXNN_groupF]
  simp [decodeGroupF]

end Sys2Proof

namespace Sys2Proof.Machine

section KeyWait
variable {s : State} (x : Reg)

theorem exec_ldVxK_of_key_none (h : s.key = none) : exec (.ldVxK x) s = .next (s.setPc (s.pc - 2)) := by
  obtain ⟨-, e⟩ | ⟨k, hk, -⟩ := execLdVxK_cases s x
  · exact e
  · cases h.symm.trans hk

theorem exec_ldVxK_of_key_some {k : Key} (h : s.key = some k) :
    exec (.ldVxK x) s = .next (s.setReg x (k.setWidth 8)) := by
  obtain ⟨hn, -⟩ | ⟨k', hk, e⟩ := execLdVxK_cases s x
  · cases h.symm.trans hn
  · cases h.symm.trans hk
    exact e

end KeyWait

/-- A key loses nothing by widening to a byte. -/
theorem toNat_setWidth_key (k : Key) : (k.setWidth 8 : Byte).toNat = k.toNat :=
  BitVec.toNat_setWidth_of_le (by decide)

/-- Settles O34: `FX0A` decodes to LD_VX_K, which only sets `pc` back without a key and only writes `V[X]` with one; that the
latch stays is part of the frame of a register write. -/
theorem waitForKeySpinsOrStores : Obligations.WaitForKeySpinsOrStores := by
  refine ⟨decodeWord_formXNN_ldVxK, fun x s hkey => ?_, fun x k s hkey => ?_⟩
  · exact ⟨s.setPc (s.pc - 2), exec_ldVxK_of_key_none x hkey, State.setPc_pc s _, onlyPc_setPc s _⟩
  · obtain ⟨t, he, hx, frame⟩ := writes_of_exec_eq_setReg (exec_ldVxK_of_key_some x hkey)
    exact ⟨t, he, by rw [hx, toNat_setWidth_key], frame⟩

end Sys2Proof.Machine
end

section
/-!
PROOFS. LD_VX_DT, LD_DT_VX and LD_ST_VX (45_keypad_timers.md R193, R194, R195): their words in group F, and what a write of a
timer leaves unchanged.
-/
namespace Sys2Proof

theorem decodeWord_formXNN_ldVxDt (x : Reg) : decodeWord (formXNN 0xF#4 x 0x07#8) = .ok (.ldVxDt x) := by
  rw [decodeWord_formXNN_groupF]
  simp [decodeGroupF]

theorem decodeWord_formXNN_ldDtVx (x : Reg) : decodeWord (formXNN 0xF#4 x 0x15#8) = .ok (.ldDtVx x) := by
  rw [decodeWord_formXNN_groupF]
  simp [decodeGroupF]

theorem decodeWord_formXNN_ldStVx (x : Reg) : decodeWord (formXNN 0xF#4 x 0x18#8) = .ok (.ldStVx x) := by
  rw [decodeWord_formXNN_groupF]
  simp [decodeGroupF]

end Sys2Proof

namespace Sys2Proof.Machine
open Sys2Proof.Claims

section TimerWrite
variable (s : State) (b : Byte)

theorem onlyDt_setDt : s.setDt b = { s with dt := b } ∧ SameMemory s (s.setDt b) :=
  ⟨rfl, State.setDt_byte s b⟩

theorem onlySt_setSt : s.setSt b = { s with st := b } ∧ SameMemory s (s.setSt b) :=
  ⟨rfl, State.setSt_byte s b⟩

end TimerWrite

section TimerMove
variable (s : State) (x : Reg)

theorem exec_ldVxDt : exec (.ldVxDt x) s = .next (s.setReg x s.dt) := rfl

theorem exec_ldDtVx : exec (.ldDtVx x) s = .next (s.setDt (s.reg x)) := rfl

theorem exec_ldStVx : exec (.ldStVx x) s = .next (s.setSt (s.reg x)) := rfl

end TimerMove

/-- Settles O35: `FX07`, `FX15` and `FX18` decode to the three moves, the first a write of `V[X]` alone and the others of one
timer alone. -/
theorem timerMoves : Obligations.TimerMoves := by
  refine ⟨fun x => ⟨decodeWord_formXNN_ldVxDt x, decodeWord_formXNN_ldDtVx x, decodeWord_formXNN_ldStVx x⟩,
    fun x s => ⟨?_, ?_, ?_⟩⟩
  · exact writes_of_exec_eq_setReg (exec_ldVxDt s x)
  · exact ⟨s.setDt (s.reg x), exec_ldDtVx s x, onlyDt_setDt s _⟩
  · exact ⟨s.setSt (s.reg x), exec_ldStVx s x, onlySt_setSt s _⟩

end Sys2Proof.Machine
end

section
/-!
PROOFS. LD_I (46_index_memory.md R200): group A of the decoder, what a write of `I` leaves unchanged, and what `I` can be
after any instruction, so which of them can lower it.
-/
namespace Sys2Proof

theorem decodeWord_ldI {w : Word} (h : opG w = 0xA#4) : decodeWord w = .ok (.ldI (opNNN w)) := by
  simp [decodeWord, h]

theorem decodeWord_formNNN_ldI (nnn : Addr) : decodeWord (formNNN 0xA#4 nnn) = .ok (.ldI nnn) := by
  rw [decodeWord_ldI (opG_formNNN _ nnn), opNNN_formNNN]

end Sys2Proof

namespace Sys2Proof.Machine
open Sys2Proof.Claims

theorem onlyIndex_setIndex (s : State) (w : Word) : OnlyIndex s (s.setIndex w) :=
  ⟨rfl, State.setIndex_byte s w⟩

theorem exec_ldI (nnn : Addr) (s : State) : exec (.ldI nnn) s = .next (s.setIndex (literalWord nnn)) := rfl

@[simp] theorem State.skipIf_index (s : State) (c : Bool) : (s.skipIf c).index = s.index := by
  rw [State.skipIf_eq, State.setPc_index]

/-- An outcome has one next state, so the `I` it is known to hold is the `I` after it. -/
theorem index_eq_of_eq_next {r : Result} {t u : State} {w : Word} (e : r = .next u) (hu : u.index = w)
    (h : r = .next t) : t.index = w := by
  cases e.symm.trans h
  exact hu

/-- What `I` can be after an instruction: LD_I, LD_F and ADD_I write it always, ST_REGS and LD_REGS where their whole block
lies in memory, and nothing else does (10_state.md R41). -/
theorem exec_index_cases {i : Instr} {s t : State} (h : exec i s = .next t) :
    t.index = s.index ∨
    (∃ nnn, i = .ldI nnn ∧ t.index = literalWord nnn) ∨
    (∃ x, i = .ldF x ∧ t.index = glyphAddress (s.glyph x)) ∨
    (∃ x, i = .addI x ∧ t.index = s.index + (s.reg x).setWidth 16) ∨
    (∃ x, (i = .stRegs x ∨ i = .ldRegs x) ∧ s.index.toNat + x.toNat + 1 ≤ 4096 ∧ t.index = s.blockIndex x) := by
  cases i with
  | ldI nnn =>
    cases h
    exact .inr (.inl ⟨nnn, rfl, rfl⟩)
  | ldF x =>
    cases h
    exact .inr (.inr (.inl ⟨x, rfl, rfl⟩))
  | addI x =>
    cases h
    exact .inr (.inr (.inr (.inl ⟨x, rfl, rfl⟩)))
  | stRegs x =>
    obtain ⟨fits, e⟩ | ⟨-, e⟩ := execStRegs_cases s x
    · exact .inr (.inr (.inr (.inr ⟨x, .inl rfl, fits, index_eq_of_eq_next e rfl h⟩)))
    · exact .inl (index_eq_of_eq_next e rfl h)
  | ldRegs x =>
    obtain ⟨fits, e⟩ | ⟨-, e⟩ := execLdRegs_cases s x
    · exact .inr (.inr (.inr (.inr ⟨x, .inr rfl, fits, index_eq_of_eq_next e rfl h⟩)))
    · exact .inl (index_eq_of_eq_next e rfl h)
  | ret =>
    obtain ⟨_, _, -, e⟩ | ⟨-, e⟩ := execRet_cases s <;> exact .inl (index_eq_of_eq_next e rfl h)
  | call nnn =>
    obtain ⟨-, e⟩ | ⟨-, e⟩ := execCall_cases s nnn <;> exact .inl (index_eq_of_eq_next e rfl h)
  | drw x y n =>
    obtain ⟨-, e⟩ | ⟨-, e⟩ := execDrw_cases s x y n <;> exact .inl (index_eq_of_eq_next e rfl h)
  | ldVxK x =>
    obtain ⟨-, e⟩ | ⟨_, -, e⟩ := execLdVxK_cases s x <;> exact .inl (index_eq_of_eq_next e rfl h)
  | ldB x =>
    obtain ⟨-, e⟩ | ⟨-, e⟩ := execLdB_cases s x <;> exact .inl (index_eq_of_eq_next e rfl h)
  | _ =>
    cases h
    exact .inl (by simp)

/-- Under a whole block in memory, `I + X + 1` is at most 4096, so the block's last write of `I` does not wrap
(46_index_memory.md R203, R204). -/
theorem State.toNat_index_le_blockIndex {s : State} {x : Reg} (fits : s.index.toNat + x.toNat + 1 ≤ 4096) :
    s.index.toNat ≤ (s.blockIndex x).toNat := by
  unfold State.blockIndex
  split
  · exact Nat.le_refl _
  · rw [BitVec.toNat_ofNat, Nat.mod_eq_of_lt (by omega)]
    omega

/-- Adding a byte lowers a word only where the sum wraps (46_index_memory.md R201). -/
theorem wraps_of_add_lt {w : Word} {b : Byte} (h : (w + b.setWidth 16).toNat < w.toNat) : 65536 ≤ w.toNat + b.toNat := by
  refine Nat.le_of_not_lt fun small => ?_
  rw [BitVec.toNat_add, BitVec.toNat_setWidth_of_le (by decide), Nat.mod_eq_of_lt (by omega)] at h
  omega

/-- Settles O36: a word of group A decodes to LD_I of its NNN, and LD_I only sets `I`, to the widened literal. Of the other
writers of `I`, a block moves it up inside memory and ADD_I adds, so lowering it takes LD_F or a wrap. -/
theorem ldILoadsTheLiteral : Obligations.LdILoadsTheLiteral := by
  refine ⟨decodeWord_formNNN_ldI, fun nnn s => ?_, fun i s t h lower => ?_⟩
  · exact ⟨s.setIndex (literalWord nnn), exec_ldI nnn s, toNat_literalWord nnn, onlyIndex_setIndex s _⟩
  · obtain kept | ⟨nnn, rfl, -⟩ | ⟨x, rfl, -⟩ | ⟨x, rfl, added⟩ | ⟨x, -, fits, moved⟩ := exec_index_cases h
    · exact absurd lower (kept ▸ Nat.lt_irrefl _)
    · exact .inl ⟨nnn, rfl⟩
    · exact .inr (.inl ⟨x, rfl⟩)
    · exact .inr (.inr ⟨x, rfl, wraps_of_add_lt (added ▸ lower)⟩)
    · exact absurd lower (moved ▸ Nat.not_lt_of_le (State.toNat_index_le_blockIndex fits))

end Sys2Proof.Machine
end

section
/-!
PROOFS. The decoder and the encoder (30_encoding.md sections 3 and 4). First what the decoder answers on the word of each
form, one lemma an instruction; then what it answers tells about the word, by the group of the word.
-/
namespace Sys2Proof

/-! ### The word of each instruction decodes to it -/

theorem decodeWord_ret : decodeWord 0x00EE#16 = .ok .ret := by
  rw [decodeWord_group0 (by decide)]
  exact if_neg (by decide)

theorem decodeWord_formNNN_jp (nnn : Addr) : decodeWord (formNNN 0x1#4 nnn) = .ok (.jp nnn) := by
  rw [decodeWord_jp (opG_formNNN _ nnn), opNNN_formNNN]

theorem decodeWord_formNNN_call (nnn : Addr) : decodeWord (formNNN 0x2#4 nnn) = .ok (.call nnn) := by
  simp [decodeWord]

theorem decodeWord_jpOff {w : Word} (h : opG w = 0xB#4) : decodeWord w = .ok (.jpOff (opX w) (opNNN w)) := by
  simp [decodeWord, h]

/-- The X of a decoded `BNNN` is the high nibble of its NNN (40_flow.md R133). -/
theorem decodeWord_formNNN_jpOff (nnn : Addr) :
    decodeWord (formNNN 0xB#4 nnn) = .ok (.jpOff (nnn.extractLsb' 8 4) nnn) := by
  rw [decodeWord_jpOff (opG_formNNN _ nnn), opX_formNNN, opNNN_formNNN]

theorem decodeWord_formXNN_rnd (x : Reg) (nn : Byte) : decodeWord (formXNN 0xC#4 x nn) = .ok (.rnd x nn) := by
  simp [decodeWord]

theorem decodeWord_formXYN_drw (x y : Reg) (n : Nibble) : decodeWord (formXYN 0xD#4 x y n) = .ok (.drw x y n) := by
  simp [decodeWord]

/-- Group 5 leaves the choice to the low nibble alone (30_encoding.md R104). -/
theorem decodeWord_formXYN_group5 (x y : Reg) (n : Nibble) :
    decodeWord (formXYN 0x5#4 x y n) = decodeGroup5 (formXYN 0x5#4 x y n) := by
  simp [decodeWord]

theorem decodeWord_formXYN_seReg (x y : Reg) : decodeWord (formXYN 0x5#4 x y 0x0#4) = .ok (.seReg x y) := by
  rw [decodeWord_formXYN_group5]
  simp [decodeGroup5]

/-- Group 9 leaves the choice to the low nibble alone (30_encoding.md R104). -/
theorem decodeWord_formXYN_group9 (x y : Reg) (n : Nibble) :
    decodeWord (formXYN 0x9#4 x y n) = decodeGroup9 (formXYN 0x9#4 x y n) := by
  simp [decodeWord]

theorem decodeWord_formXYN_sneReg (x y : Reg) : decodeWord (formXYN 0x9#4 x y 0x0#4) = .ok (.sneReg x y) := by
  rw [decodeWord_formXYN_group9]
  simp [decodeGroup9]

theorem decodeWord_formXYN_ldReg (x y : Reg) : decodeWord (formXYN 0x8#4 x y 0x0#4) = .ok (.ldReg x y) := by
  rw [decodeWord_formXYN_group8]
  simp [decodeGroup8]

theorem decodeWord_formXYN_or (x y : Reg) : decodeWord (formXYN 0x8#4 x y 0x1#4) = .ok (.or x y) := by
  rw [decodeWord_formXYN_group8]
  simp [decodeGroup8]

theorem decodeWord_formXYN_and (x y : Reg) : decodeWord (formXYN 0x8#4 x y 0x2#4) = .ok (.and x y) := by
  rw [decodeWord_formXYN_group8]
  simp [decodeGroup8]

theorem decodeWord_formXYN_xor (x y : Reg) : decodeWord (formXYN 0x8#4 x y 0x3#4) = .ok (.xor x y) := by
  rw [decodeWord_formXYN_group8]
  simp [decodeGroup8]

/-- Group E leaves the choice to the low byte alone (30_encoding.md R103). -/
theorem decodeWord_formXNN_groupE (x : Reg) (nn : Byte) :
    decodeWord (formXNN 0xE#4 x nn) = decodeGroupE (formXNN 0xE#4 x nn) := by
  simp [decodeWord]

theorem decodeWord_formXNN_skp (x : Reg) : decodeWord (formXNN 0xE#4 x 0x9E#8) = .ok (.skp x) := by
  rw [decodeWord_formXNN_groupE]
  simp [decodeGroupE]

theorem decodeWord_formXNN_sknp (x : Reg) : decodeWord (formXNN 0xE#4 x 0xA1#8) = .ok (.sknp x) := by
  rw [decodeWord_formXNN_groupE]
  simp [decodeGroupE]

theorem decodeWord_formXNN_addI (x : Reg) : decodeWord (formXNN 0xF#4 x 0x1E#8) = .ok (.addI x) := by
  rw [decodeWord_formXNN_groupF]
  simp [decodeGroupF]

theorem decodeWord_formXNN_ldF (x : Reg) : decodeWord (formXNN 0xF#4 x 0x29#8) = .ok (.ldF x) := by
  rw [decodeWord_formXNN_groupF]
  simp [decodeGroupF]

theorem decodeWord_formXNN_ldB (x : Reg) : decodeWord (formXNN 0xF#4 x 0x33#8) = .ok (.ldB x) := by
  rw [decodeWord_formXNN_groupF]
  simp [decodeGroupF]

theorem decodeWord_formXNN_stRegs (x : Reg) : decodeWord (formXNN 0xF#4 x 0x55#8) = .ok (.stRegs x) := by
  rw [decodeWord_formXNN_groupF]
  simp [decodeGroupF]

theorem decodeWord_formXNN_ldRegs (x : Reg) : decodeWord (formXNN 0xF#4 x 0x65#8) = .ok (.ldRegs x) := by
  rw [decodeWord_formXNN_groupF]
  simp [decodeGroupF]

/-- Only `BNNN` has overlapping fields, so only there its two fields must agree (30_encoding.md R101). -/
theorem decodeWord_encodeWord {i : Instr} (h : i.wellFormed = true) : decodeWord (encodeWord i) = .ok i := by
  cases i with
  | cls => exact decodeWord_cls
  | ret => exact decodeWord_ret
  | jp nnn => exact decodeWord_formNNN_jp nnn
  | call nnn => exact decodeWord_formNNN_call nnn
  | seImm x nn => exact decodeWord_formXNN_seImm x nn
  | sneImm x nn => exact decodeWord_formXNN_sneImm x nn
  | seReg x y => exact decodeWord_formXYN_seReg x y
  | ldImm x nn => exact decodeWord_formXNN_ldImm x nn
  | addImm x nn => exact decodeWord_formXNN_addImm x nn
  | ldReg x y => exact decodeWord_formXYN_ldReg x y
  | or x y => exact decodeWord_formXYN_or x y
  | and x y => exact decodeWord_formXYN_and x y
  | xor x y => exact decodeWord_formXYN_xor x y
  | addReg x y => exact decodeWord_formXYN_addReg x y
  | sub x y => exact decodeWord_formXYN_sub x y
  | shr x y => exact decodeWord_formXYN_shr x y
  | subn x y => exact decodeWord_formXYN_subn x y
  | shl x y => exact decodeWord_formXYN_shl x y
  | sneReg x y => exact decodeWord_formXYN_sneReg x y
  | ldI nnn => exact decodeWord_formNNN_ldI nnn
  | jpOff x nnn =>
    obtain rfl : x = nnn.extractLsb' 8 4 := eq_of_beq h
    exact decodeWord_formNNN_jpOff nnn
  | rnd x nn => exact decodeWord_formXNN_rnd x nn
  | drw x y n => exact decodeWord_formXYN_drw x y n
  | skp x => exact decodeWord_formXNN_skp x
  | sknp x => exact decodeWord_formXNN_sknp x
  | ldVxDt x => exact decodeWord_formXNN_ldVxDt x
  | ldVxK x => exact decodeWord_formXNN_ldVxK x
  | ldDtVx x => exact decodeWord_formXNN_ldDtVx x
  | ldStVx x => exact decodeWord_formXNN_ldStVx x
  | addI x => exact decodeWord_formXNN_addI x
  | ldF x => exact decodeWord_formXNN_ldF x
  | ldB x => exact decodeWord_formXNN_ldB x
  | stRegs x => exact decodeWord_formXNN_stRegs x
  | ldRegs x => exact decodeWord_formXNN_ldRegs x

/-- Settles O1: decoding the bytes of a word is decoding the word, and the word of each instruction decodes to it. -/
theorem decodeEncodeRoundTrip : Obligations.DecodeEncodeRoundTrip := by
  intro i rest h
  rw [encode, decode_bytesOfWord, decodeWord_encodeWord h]
  rfl

/-! ### A word from the fields its row fixes -/

section Fields
variable {w : Word} {g : BitVec 4}

theorem formNNN_of_opG (hg : opG w = g) : formNNN g (opNNN w) = w := by
  rw [← hg, formNNN_fields]

theorem formXNN_of_opG (hg : opG w = g) : formXNN g (opX w) (opNN w) = w := by
  rw [← hg, formXNN_fields]

theorem formXYN_of_opG (hg : opG w = g) : formXYN g (opX w) (opY w) (opN w) = w := by
  rw [← hg, formXYN_fields]

theorem formXNN_of_opG_opNN {nn : Byte} (hg : opG w = g) (hnn : opNN w = nn) : formXNN g (opX w) nn = w := by
  rw [← hnn, formXNN_of_opG hg]

theorem formXYN_of_opG_opN {n : Nibble} (hg : opG w = g) (hn : opN w = n) : formXYN g (opX w) (opY w) n = w := by
  rw [← hn, formXYN_of_opG hg]

end Fields

/-- The high nibble of NNN is X (30_encoding.md R101). -/
theorem opX_eq_extractLsb'_opNNN (w : Word) : opX w = (opNNN w).extractLsb' 8 4 := by
  rw [← opX_formNNN (opG w) (opNNN w), formNNN_fields]

end Sys2Proof
end

section
/-!
PROOFS. What an answer of the decoder tells about the word (30_encoding.md section 4): an instruction decoded encodes to the
word, and a word turned down is of one of six groups.
-/
namespace Sys2Proof

/-! ### An instruction decoded encodes to the word -/

/-- The word is the encoding of the instruction, and the instruction one that stands for a word. -/
def EncodesTo (i : Instr) (w : Word) : Prop := i.wellFormed = true ∧ encodeWord i = w

section Selected
variable {w : Word} {i : Instr}

/-- One test of a group's selection: the word is that of the instruction selected, or the tests go on. -/
theorem encodesTo_of_ite {P : Prop} [Decidable P] {j : Instr} {r : Except Reject Instr}
    (h : (if P then .ok j else r) = .ok i) (selected : P → EncodesTo j w) (rest : r = .ok i → EncodesTo i w) :
    EncodesTo i w := by
  by_cases hP : P
  · rw [if_pos hP] at h
    cases h
    exact selected hP
  · rw [if_neg hP] at h
    exact rest h

theorem encodesTo_of_decodeGroup0 (h : decodeGroup0 w = .ok i) : EncodesTo i w := by
  unfold decodeGroup0 at h
  refine encodesTo_of_ite h (fun hcls => ⟨rfl, hcls.symm⟩) fun h => ?_
  refine encodesTo_of_ite h (fun hret => ⟨rfl, hret.symm⟩) fun h => ?_
  cases h

theorem encodesTo_of_decodeGroup5 (hg : opG w = 0x5#4) (h : decodeGroup5 w = .ok i) : EncodesTo i w := by
  unfold decodeGroup5 at h
  refine encodesTo_of_ite h (fun hn => ⟨rfl, formXYN_of_opG_opN hg hn⟩) fun h => ?_
  cases h

theorem encodesTo_of_decodeGroup8 (hg : opG w = 0x8#4) (h : decodeGroup8 w = .ok i) : EncodesTo i w := by
  unfold decodeGroup8 at h
  refine encodesTo_of_ite h (fun hn => ⟨rfl, formXYN_of_opG_opN hg hn⟩) fun h => ?_
  refine encodesTo_of_ite h (fun hn => ⟨rfl, formXYN_of_opG_opN hg hn⟩) fun h => ?_
  refine encodesTo_of_ite h (fun hn => ⟨rfl, formXYN_of_opG_opN hg hn⟩) fun h => ?_
  refine encodesTo_of_ite h (fun hn => ⟨rfl, formXYN_of_opG_opN hg hn⟩) fun h => ?_
  refine encodesTo_of_ite h (fun hn => ⟨rfl, formXYN_of_opG_opN hg hn⟩) fun h => ?_
  refine encodesTo_of_ite h (fun hn => ⟨rfl, formXYN_of_opG_opN hg hn⟩) fun h => ?_
  refine encodesTo_of_ite h (fun hn => ⟨rfl, formXYN_of_opG_opN hg hn⟩) fun h => ?_
  refine encodesTo_of_ite h (fun hn => ⟨rfl, formXYN_of_opG_opN hg hn⟩) fun h => ?_
  refine encodesTo_of_ite h (fun hn => ⟨rfl, formXYN_of_opG_opN hg hn⟩) fun h => ?_
  cases h

theorem encodesTo_of_decodeGroup9 (hg : opG w = 0x9#4) (h : decodeGroup9 w = .ok i) : EncodesTo i w := by
  unfold decodeGroup9 at h
  refine encodesTo_of_ite h (fun hn => ⟨rfl, formXYN_of_opG_opN hg hn⟩) fun h => ?_
  cases h

theorem encodesTo_of_decodeGroupE (hg : opG w = 0xE#4) (h : decodeGroupE w = .ok i) : EncodesTo i w := by
  unfold decodeGroupE at h
  refine encodesTo_of_ite h (fun hn => ⟨rfl, formXNN_of_opG_opNN hg hn⟩) fun h => ?_
  refine encodesTo_of_ite h (fun hn => ⟨rfl, formXNN_of_opG_opNN hg hn⟩) fun h => ?_
  cases h

theorem encodesTo_of_decodeGroupF (hg : opG w = 0xF#4) (h : decodeGroupF w = .ok i) : EncodesTo i w := by
  unfold decodeGroupF at h
  refine encodesTo_of_ite h (fun hn => ⟨rfl, formXNN_of_opG_opNN hg hn⟩) fun h => ?_
  refine encodesTo_of_ite h (fun hn => ⟨rfl, formXNN_of_opG_opNN hg hn⟩) fun h => ?_
  refine encodesTo_of_ite h (fun hn => ⟨rfl, formXNN_of_opG_opNN hg hn⟩) fun h => ?_
  refine encodesTo_of_ite h (fun hn => ⟨rfl, formXNN_of_opG_opNN hg hn⟩) fun h => ?_
  refine encodesTo_of_ite h (fun hn => ⟨rfl, formXNN_of_opG_opNN hg hn⟩) fun h => ?_
  refine encodesTo_of_ite h (fun hn => ⟨rfl, formXNN_of_opG_opNN hg hn⟩) fun h => ?_
  refine encodesTo_of_ite h (fun hn => ⟨rfl, formXNN_of_opG_opNN hg hn⟩) fun h => ?_
  refine encodesTo_of_ite h (fun hn => ⟨rfl, formXNN_of_opG_opNN hg hn⟩) fun h => ?_
  refine encodesTo_of_ite h (fun hn => ⟨rfl, formXNN_of_opG_opNN hg hn⟩) fun h => ?_
  cases h

/-- The groups are the 16 values of a nibble, so what is none of the first 15 is group F (30_encoding.md R101). -/
theorem opG_cases (w : Word) :
    opG w = 0x0#4 ∨ opG w = 0x1#4 ∨ opG w = 0x2#4 ∨ opG w = 0x3#4 ∨ opG w = 0x4#4 ∨ opG w = 0x5#4 ∨ opG w = 0x6#4 ∨
    opG w = 0x7#4 ∨ opG w = 0x8#4 ∨ opG w = 0x9#4 ∨ opG w = 0xA#4 ∨ opG w = 0xB#4 ∨ opG w = 0xC#4 ∨ opG w = 0xD#4 ∨
    opG w = 0xE#4 ∨ opG w = 0xF#4 := by
  generalize opG w = g
  revert g
  decide

theorem encodesTo_of_decodeWord (h : decodeWord w = .ok i) : EncodesTo i w := by
  obtain g | g | g | g | g | g | g | g | g | g | g | g | g | g | g | g := opG_cases w <;>
    simp only [decodeWord, g, BitVec.reduceEq, ↓reduceIte, Except.ok.injEq] at h
  · exact encodesTo_of_decodeGroup0 h
  · exact h ▸ ⟨rfl, formNNN_of_opG g⟩
  · exact h ▸ ⟨rfl, formNNN_of_opG g⟩
  · exact h ▸ ⟨rfl, formXNN_of_opG g⟩
  · exact h ▸ ⟨rfl, formXNN_of_opG g⟩
  · exact encodesTo_of_decodeGroup5 g h
  · exact h ▸ ⟨rfl, formXNN_of_opG g⟩
  · exact h ▸ ⟨rfl, formXNN_of_opG g⟩
  · exact encodesTo_of_decodeGroup8 g h
  · exact encodesTo_of_decodeGroup9 g h
  · exact h ▸ ⟨rfl, formNNN_of_opG g⟩
  · exact h ▸ ⟨beq_iff_eq.mpr (opX_eq_extractLsb'_opNNN w), formNNN_of_opG g⟩
  · exact h ▸ ⟨rfl, formXNN_of_opG g⟩
  · exact h ▸ ⟨rfl, formXYN_of_opG g⟩
  · exact encodesTo_of_decodeGroupE g h
  · exact encodesTo_of_decodeGroupF g h

end Selected

/-- Settles O2: whichever row the decoder took, the fields it tested and the fields it kept make up the word. -/
theorem encodeDecodeRoundTrip : Obligations.EncodeDecodeRoundTrip :=
  fun _ _ h => encodesTo_of_decodeWord h

/-! ### The word turned down -/

@[simp] theorem toNat_opN (w : Word) : (opN w).toNat = w.toNat % 16 := by
  rw [opN, BitVec.extractLsb'_toNat, Nat.shiftRight_zero]

@[simp] theorem toNat_opNN (w : Word) : (opNN w).toNat = w.toNat % 256 := by
  rw [opNN, BitVec.extractLsb'_toNat, Nat.shiftRight_zero]

section TurnedDown
variable (w : Word) (e : Reject)

theorem opG_eq_iff (g : BitVec 4) : opG w = g ↔ w.toNat / 4096 = g.toNat := by
  rw [← toNat_opG, BitVec.toNat_inj]

theorem opN_eq_ofNat_iff (k : Nat) : opN w = BitVec.ofNat 4 k ↔ w.toNat % 16 = k % 16 := by
  rw [← toNat_opN, ← BitVec.toNat_inj, BitVec.toNat_ofNat]

theorem opNN_eq_ofNat_iff (k : Nat) : opNN w = BitVec.ofNat 8 k ↔ w.toNat % 256 = k % 256 := by
  rw [← toNat_opNN, ← BitVec.toNat_inj, BitVec.toNat_ofNat]

/-- One test of a group's selection turns the word down when it fails and the tests after it turn the word down. -/
theorem ite_ok_eq_error_iff {P : Prop} [Decidable P] {j : Instr} {r : Except Reject Instr} :
    (if P then .ok j else r) = .error e ↔ ¬ P ∧ r = .error e := by
  by_cases hP : P <;>
    simp only [hP, if_true, if_false, reduceCtorEq, not_true_eq_false, not_false_eq_true, false_and, true_and]

theorem error_eq_error_iff {a : Reject} : (.error a : Except Reject Instr) = .error e ↔ e = a := by
  rw [Except.error.injEq, eq_comm]

theorem decodeGroup0_eq_error_iff :
    decodeGroup0 w = .error e ↔ e = .group0 ∧ w ≠ 0x00E0#16 ∧ w ≠ 0x00EE#16 := by
  simp only [decodeGroup0, ite_ok_eq_error_iff, error_eq_error_iff]
  rw [← and_assoc, and_comm]

theorem decodeGroup5_eq_error_iff : decodeGroup5 w = .error e ↔ e = .group5 ∧ w.toNat % 16 ≠ 0 := by
  simp only [decodeGroup5, ite_ok_eq_error_iff, error_eq_error_iff, opN_eq_ofNat_iff]
  exact and_comm

/-- The tests failed by a word turned down leave seven values of the low nibble. -/
theorem decodeGroup8_eq_error_iff :
    decodeGroup8 w = .error e ↔ e = .group8 ∧ w.toNat % 16 ∈ [8, 9, 0xA, 0xB, 0xC, 0xD, 0xF] := by
  simp only [decodeGroup8, ite_ok_eq_error_iff, error_eq_error_iff, opN_eq_ofNat_iff, ← and_assoc, List.mem_cons,
    List.not_mem_nil, or_false]
  rw [and_comm]
  exact and_congr_right fun _ => by omega

theorem decodeGroup9_eq_error_iff : decodeGroup9 w = .error e ↔ e = .group9 ∧ w.toNat % 16 ≠ 0 := by
  simp only [decodeGroup9, ite_ok_eq_error_iff, error_eq_error_iff, opN_eq_ofNat_iff]
  exact and_comm

theorem decodeGroupE_eq_error_iff :
    decodeGroupE w = .error e ↔ e = .groupE ∧ w.toNat % 256 ∉ [0x9E, 0xA1] := by
  simp only [decodeGroupE, ite_ok_eq_error_iff, error_eq_error_iff, opNN_eq_ofNat_iff, ← and_assoc, List.mem_cons,
    List.not_mem_nil, or_false]
  rw [and_comm]
  exact and_congr_right fun _ => by omega

theorem decodeGroupF_eq_error_iff :
    decodeGroupF w = .error e ↔
      e = .groupF ∧ w.toNat % 256 ∉ [0x07, 0x0A, 0x15, 0x18, 0x1E, 0x29, 0x33, 0x55, 0x65] := by
  simp only [decodeGroupF, ite_ok_eq_error_iff, error_eq_error_iff, opNN_eq_ofNat_iff, ← and_assoc, List.mem_cons,
    List.not_mem_nil, or_false]
  rw [and_comm]
  exact and_congr_right fun _ => by omega

/-- Six groups have a sub-selector, and only they can turn a word down (30_encoding.md R104). -/
theorem decodeWord_eq_error_iff :
    decodeWord w = .error e ↔
      (opG w = 0x0#4 ∧ decodeGroup0 w = .error e) ∨ (opG w = 0x5#4 ∧ decodeGroup5 w = .error e) ∨
      (opG w = 0x8#4 ∧ decodeGroup8 w = .error e) ∨ (opG w = 0x9#4 ∧ decodeGroup9 w = .error e) ∨
      (opG w = 0xE#4 ∧ decodeGroupE w = .error e) ∨ (opG w = 0xF#4 ∧ decodeGroupF w = .error e) := by
  obtain g | g | g | g | g | g | g | g | g | g | g | g | g | g | g | g := opG_cases w <;> simp [decodeWord, g]

end TurnedDown

/-- Settles O4: each group's sub-selector, as a remainder of the word, against the list of the values that select. -/
theorem unrecognizedWordsAreTheTablesOwn : Obligations.UnrecognizedWordsAreTheTablesOwn := by
  intro w e
  rw [decodeWord_eq_error_iff, decodeGroup0_eq_error_iff, decodeGroup5_eq_error_iff, decodeGroup8_eq_error_iff,
    decodeGroup9_eq_error_iff, decodeGroupE_eq_error_iff, decodeGroupF_eq_error_iff]
  simp only [opG_eq_iff, and_left_comm (b := e = _)]
  rfl

/-- Settles O5: the recognized words are encodings of their instructions, and the others stand in the table of unrecognized
words. -/
theorem sampleWordsDecode : Obligations.SampleWordsDecode := by
  have defined : ∀ (w : Word) (i : Instr), i.wellFormed = true → encodeWord i = w → decodeWord w = .ok i := by
    rintro _ i wf rfl
    exact decodeWord_encodeWord wf
  refine ⟨defined _ _ rfl rfl, defined _ _ rfl rfl, defined _ _ rfl rfl, defined _ _ rfl rfl, defined _ _ rfl rfl,
    defined _ _ rfl rfl, defined _ _ rfl rfl, defined _ _ rfl rfl, defined _ _ rfl rfl, defined _ _ rfl rfl, ?_, ?_, ?_⟩
  all_goals
    rw [unrecognizedWordsAreTheTablesOwn]
    decide

end Sys2Proof
end

section
/-!
PROOFS. The opcode map (30_encoding.md R103): a word that meets a row is the encoding of an instruction of that row, and the
word of an instruction meets its own row.
-/
namespace Sys2Proof

section Covered
variable {r : OpcodeRow} {w : Word}

theorem and_mask_of_covers (hc : r.covers w = true) : w &&& r.mask = r.pattern := eq_of_beq hc

/-- A row that fixes the whole group fixes it to that of its pattern. -/
theorem opG_of_covers (hc : r.covers w = true) (hm : opG r.mask = BitVec.allOnes 4) : opG w = opG r.pattern := by
  rw [← and_mask_of_covers hc, opG, opG, BitVec.extractLsb'_and, ← opG, ← opG, hm, BitVec.and_allOnes]

/-- A row that fixes the whole low nibble fixes it to that of its pattern. -/
theorem opN_of_covers (hc : r.covers w = true) (hm : opN r.mask = BitVec.allOnes 4) : opN w = opN r.pattern := by
  rw [← and_mask_of_covers hc, opN, opN, BitVec.extractLsb'_and, ← opN, ← opN, hm, BitVec.and_allOnes]

/-- A row that fixes the whole low byte fixes it to that of its pattern. -/
theorem opNN_of_covers (hc : r.covers w = true) (hm : opNN r.mask = BitVec.allOnes 8) : opNN w = opNN r.pattern := by
  rw [← and_mask_of_covers hc, opNN, opNN, BitVec.extractLsb'_and, ← opNN, ← opNN, hm, BitVec.and_allOnes]

/-- A row that fixes every bit is met by its pattern alone. -/
theorem eq_pattern_of_covers (hc : r.covers w = true) (hm : r.mask = BitVec.allOnes 16) : w = r.pattern := by
  rw [← and_mask_of_covers hc, hm, BitVec.and_allOnes]

/-- The instruction of a row, with the operands the word holds. -/
theorem exists_encodesTo_of_covers (hr : r ∈ opcodeRows) (hc : r.covers w = true) :
    ∃ i, EncodesTo i w ∧ i.mnemonic = r.mnemonic := by
  simp only [opcodeRows, List.mem_append, List.mem_cons, List.not_mem_nil, or_false, or_assoc] at hr
  obtain rfl | rfl | rfl | rfl | rfl | rfl | rfl | rfl | rfl | rfl | rfl | rfl | rfl | rfl | rfl | rfl | rfl |
    rfl | rfl | rfl | rfl | rfl | rfl | rfl | rfl | rfl | rfl | rfl | rfl | rfl | rfl | rfl | rfl | rfl := hr
  · exact ⟨.cls, ⟨rfl, (eq_pattern_of_covers hc rfl).symm⟩, rfl⟩
  · exact ⟨.ret, ⟨rfl, (eq_pattern_of_covers hc rfl).symm⟩, rfl⟩
  · exact ⟨.jp (opNNN w), ⟨rfl, formNNN_of_opG (opG_of_covers hc rfl)⟩, rfl⟩
  · exact ⟨.call (opNNN w), ⟨rfl, formNNN_of_opG (opG_of_covers hc rfl)⟩, rfl⟩
  · exact ⟨.seImm (opX w) (opNN w), ⟨rfl, formXNN_of_opG (opG_of_covers hc rfl)⟩, rfl⟩
  · exact ⟨.sneImm (opX w) (opNN w), ⟨rfl, formXNN_of_opG (opG_of_covers hc rfl)⟩, rfl⟩
  · exact ⟨.seReg (opX w) (opY w), ⟨rfl, formXYN_of_opG_opN (opG_of_covers hc rfl) (opN_of_covers hc rfl)⟩, rfl⟩
  · exact ⟨.ldImm (opX w) (opNN w), ⟨rfl, formXNN_of_opG (opG_of_covers hc rfl)⟩, rfl⟩
  · exact ⟨.addImm (opX w) (opNN w), ⟨rfl, formXNN_of_opG (opG_of_covers hc rfl)⟩, rfl⟩
  · exact ⟨.ldReg (opX w) (opY w), ⟨rfl, formXYN_of_opG_opN (opG_of_covers hc rfl) (opN_of_covers hc rfl)⟩, rfl⟩
  · exact ⟨.or (opX w) (opY w), ⟨rfl, formXYN_of_opG_opN (opG_of_covers hc rfl) (opN_of_covers hc rfl)⟩, rfl⟩
  · exact ⟨.and (opX w) (opY w), ⟨rfl, formXYN_of_opG_opN (opG_of_covers hc rfl) (opN_of_covers hc rfl)⟩, rfl⟩
  · exact ⟨.xor (opX w) (opY w), ⟨rfl, formXYN_of_opG_opN (opG_of_covers hc rfl) (opN_of_covers hc rfl)⟩, rfl⟩
  · exact ⟨.addReg (opX w) (opY w), ⟨rfl, formXYN_of_opG_opN (opG_of_covers hc rfl) (opN_of_covers hc rfl)⟩, rfl⟩
  · exact ⟨.sub (opX w) (opY w), ⟨rfl, formXYN_of_opG_opN (opG_of_covers hc rfl) (opN_of_covers hc rfl)⟩, rfl⟩
  · exact ⟨.shr (opX w) (opY w), ⟨rfl, formXYN_of_opG_opN (opG_of_covers hc rfl) (opN_of_covers hc rfl)⟩, rfl⟩
  · exact ⟨.subn (opX w) (opY w), ⟨rfl, formXYN_of_opG_opN (opG_of_covers hc rfl) (opN_of_covers hc rfl)⟩, rfl⟩
  · exact ⟨.shl (opX w) (opY w), ⟨rfl, formXYN_of_opG_opN (opG_of_covers hc rfl) (opN_of_covers hc rfl)⟩, rfl⟩
  · exact ⟨.sneReg (opX w) (opY w), ⟨rfl, formXYN_of_opG_opN (opG_of_covers hc rfl) (opN_of_covers hc rfl)⟩, rfl⟩
  · exact ⟨.ldI (opNNN w), ⟨rfl, formNNN_of_opG (opG_of_covers hc rfl)⟩, rfl⟩
  · exact ⟨.jpOff (opX w) (opNNN w),
      ⟨beq_iff_eq.mpr (opX_eq_extractLsb'_opNNN w), formNNN_of_opG (opG_of_covers hc rfl)⟩, rfl⟩
  · exact ⟨.rnd (opX w) (opNN w), ⟨rfl, formXNN_of_opG (opG_of_covers hc rfl)⟩, rfl⟩
  · exact ⟨.drw (opX w) (opY w) (opN w), ⟨rfl, formXYN_of_opG (opG_of_covers hc rfl)⟩, rfl⟩
  · exact ⟨.skp (opX w), ⟨rfl, formXNN_of_opG_opNN (opG_of_covers hc rfl) (opNN_of_covers hc rfl)⟩, rfl⟩
  · exact ⟨.sknp (opX w), ⟨rfl, formXNN_of_opG_opNN (opG_of_covers hc rfl) (opNN_of_covers hc rfl)⟩, rfl⟩
  · exact ⟨.ldVxDt (opX w), ⟨rfl, formXNN_of_opG_opNN (opG_of_covers hc rfl) (opNN_of_covers hc rfl)⟩, rfl⟩
  · exact ⟨.ldVxK (opX w), ⟨rfl, formXNN_of_opG_opNN (opG_of_covers hc rfl) (opNN_of_covers hc rfl)⟩, rfl⟩
  · exact ⟨.ldDtVx (opX w), ⟨rfl, formXNN_of_opG_opNN (opG_of_covers hc rfl) (opNN_of_covers hc rfl)⟩, rfl⟩
  · exact ⟨.ldStVx (opX w), ⟨rfl, formXNN_of_opG_opNN (opG_of_covers hc rfl) (opNN_of_covers hc rfl)⟩, rfl⟩
  · exact ⟨.addI (opX w), ⟨rfl, formXNN_of_opG_opNN (opG_of_covers hc rfl) (opNN_of_covers hc rfl)⟩, rfl⟩
  · exact ⟨.ldF (opX w), ⟨rfl, formXNN_of_opG_opNN (opG_of_covers hc rfl) (opNN_of_covers hc rfl)⟩, rfl⟩
  · exact ⟨.ldB (opX w), ⟨rfl, formXNN_of_opG_opNN (opG_of_covers hc rfl) (opNN_of_covers hc rfl)⟩, rfl⟩
  · exact ⟨.stRegs (opX w), ⟨rfl, formXNN_of_opG_opNN (opG_of_covers hc rfl) (opNN_of_covers hc rfl)⟩, rfl⟩
  · exact ⟨.ldRegs (opX w), ⟨rfl, formXNN_of_opG_opNN (opG_of_covers hc rfl) (opNN_of_covers hc rfl)⟩, rfl⟩

end Covered

section Rows
variable {r : OpcodeRow} {g : BitVec 4}

theorem and_formNNN (g g' : BitVec 4) (a a' : Addr) :
    formNNN g a &&& formNNN g' a' = formNNN (g &&& g') (a &&& a') := BitVec.and_append

theorem and_formXNN (g g' : BitVec 4) (x x' : Reg) (b b' : Byte) :
    formXNN g x b &&& formXNN g' x' b' = formXNN (g &&& g') (x &&& x') (b &&& b') := by
  unfold formXNN
  rw [BitVec.and_append, BitVec.and_append]

theorem and_formXYN (g g' : BitVec 4) (x x' y y' : Reg) (n n' : Nibble) :
    formXYN g x y n &&& formXYN g' x' y' n' = formXYN (g &&& g') (x &&& x') (y &&& y') (n &&& n') := by
  unfold formXYN
  rw [BitVec.and_append, BitVec.and_append, BitVec.and_append]

theorem covers_of_and_mask {w : Word} (h : w &&& r.mask = r.pattern) : r.covers w = true := beq_iff_eq.mpr h

theorem and_nibbleOnes (n : BitVec 4) : n &&& 0xF#4 = n := BitVec.and_allOnes

theorem and_byteOnes (b : BitVec 8) : b &&& 0xFF#8 = b := BitVec.and_allOnes

theorem covers_formNNN {a : Addr} (hm : r.mask = formNNN 0xF#4 0#12) (hp : r.pattern = formNNN g 0#12) :
    r.covers (formNNN g a) = true :=
  covers_of_and_mask (by rw [hm, hp, and_formNNN, and_nibbleOnes, BitVec.and_zero])

theorem covers_formXNN {x : Reg} {b : Byte} (hm : r.mask = formXNN 0xF#4 0#4 0#8)
    (hp : r.pattern = formXNN g 0#4 0#8) : r.covers (formXNN g x b) = true :=
  covers_of_and_mask (by rw [hm, hp, and_formXNN, and_nibbleOnes, BitVec.and_zero, BitVec.and_zero])

theorem covers_formXNN_selected {x : Reg} {b : Byte} (hm : r.mask = formXNN 0xF#4 0#4 0xFF#8)
    (hp : r.pattern = formXNN g 0#4 b) : r.covers (formXNN g x b) = true :=
  covers_of_and_mask (by rw [hm, hp, and_formXNN, and_nibbleOnes, BitVec.and_zero, and_byteOnes])

theorem covers_formXYN {x y : Reg} {n : Nibble} (hm : r.mask = formXYN 0xF#4 0#4 0#4 0#4)
    (hp : r.pattern = formXYN g 0#4 0#4 0#4) : r.covers (formXYN g x y n) = true :=
  covers_of_and_mask (by rw [hm, hp, and_formXYN, and_nibbleOnes, BitVec.and_zero, BitVec.and_zero, BitVec.and_zero])

theorem covers_formXYN_selected {x y : Reg} {n : Nibble} (hm : r.mask = formXYN 0xF#4 0#4 0#4 0xF#4)
    (hp : r.pattern = formXYN g 0#4 0#4 n) : r.covers (formXYN g x y n) = true :=
  covers_of_and_mask (by
    rw [hm, hp, and_formXYN, and_nibbleOnes, BitVec.and_zero, BitVec.and_zero, and_nibbleOnes])

end Rows

/-- The row of an instruction. -/
theorem exists_covers_encodeWord (i : Instr) :
    ∃ r, r ∈ opcodeRows ∧ r.covers (encodeWord i) = true ∧ r.mnemonic = i.mnemonic := by
  cases i with
  | cls => exact ⟨opcodeRows[0], List.getElem_mem _, rfl, rfl⟩
  | ret => exact ⟨opcodeRows[1], List.getElem_mem _, rfl, rfl⟩
  | jp nnn => exact ⟨opcodeRows[2], List.getElem_mem _, covers_formNNN rfl rfl, rfl⟩
  | call nnn => exact ⟨opcodeRows[3], List.getElem_mem _, covers_formNNN rfl rfl, rfl⟩
  | seImm x nn => exact ⟨opcodeRows[4], List.getElem_mem _, covers_formXNN rfl rfl, rfl⟩
  | sneImm x nn => exact ⟨opcodeRows[5], List.getElem_mem _, covers_formXNN rfl rfl, rfl⟩
  | seReg x y => exact ⟨opcodeRows[6], List.getElem_mem _, covers_formXYN_selected rfl rfl, rfl⟩
  | ldImm x nn => exact ⟨opcodeRows[7], List.getElem_mem _, covers_formXNN rfl rfl, rfl⟩
  | addImm x nn => exact ⟨opcodeRows[8], List.getElem_mem _, covers_formXNN rfl rfl, rfl⟩
  | ldReg x y => exact ⟨opcodeRows[9], List.getElem_mem _, covers_formXYN_selected rfl rfl, rfl⟩
  | or x y => exact ⟨opcodeRows[10], List.getElem_mem _, covers_formXYN_selected rfl rfl, rfl⟩
  | and x y => exact ⟨opcodeRows[11], List.getElem_mem _, covers_formXYN_selected rfl rfl, rfl⟩
  | xor x y => exact ⟨opcodeRows[12], List.getElem_mem _, covers_formXYN_selected rfl rfl, rfl⟩
  | addReg x y => exact ⟨opcodeRows[13], List.getElem_mem _, covers_formXYN_selected rfl rfl, rfl⟩
  | sub x y => exact ⟨opcodeRows[14], List.getElem_mem _, covers_formXYN_selected rfl rfl, rfl⟩
  | shr x y => exact ⟨opcodeRows[15], List.getElem_mem _, covers_formXYN_selected rfl rfl, rfl⟩
  | subn x y => exact ⟨opcodeRows[16], List.getElem_mem _, covers_formXYN_selected rfl rfl, rfl⟩
  | shl x y => exact ⟨opcodeRows[17], List.getElem_mem _, covers_formXYN_selected rfl rfl, rfl⟩
  | sneReg x y => exact ⟨opcodeRows[18], List.getElem_mem _, covers_formXYN_selected rfl rfl, rfl⟩
  | ldI nnn => exact ⟨opcodeRows[19], List.getElem_mem _, covers_formNNN rfl rfl, rfl⟩
  | jpOff x nnn => exact ⟨opcodeRows[20], List.getElem_mem _, covers_formNNN rfl rfl, rfl⟩
  | rnd x nn => exact ⟨opcodeRows[21], List.getElem_mem _, covers_formXNN rfl rfl, rfl⟩
  | drw x y n => exact ⟨opcodeRows[22], List.getElem_mem _, covers_formXYN rfl rfl, rfl⟩
  | skp x => exact ⟨opcodeRows[23], List.getElem_mem _, covers_formXNN_selected rfl rfl, rfl⟩
  | sknp x => exact ⟨opcodeRows[24], List.getElem_mem _, covers_formXNN_selected rfl rfl, rfl⟩
  | ldVxDt x => exact ⟨opcodeRows[25], List.getElem_mem _, covers_formXNN_selected rfl rfl, rfl⟩
  | ldVxK x => exact ⟨opcodeRows[26], List.getElem_mem _, covers_formXNN_selected rfl rfl, rfl⟩
  | ldDtVx x => exact ⟨opcodeRows[27], List.getElem_mem _, covers_formXNN_selected rfl rfl, rfl⟩
  | ldStVx x => exact ⟨opcodeRows[28], List.getElem_mem _, covers_formXNN_selected rfl rfl, rfl⟩
  | addI x => exact ⟨opcodeRows[29], List.getElem_mem _, covers_formXNN_selected rfl rfl, rfl⟩
  | ldF x => exact ⟨opcodeRows[30], List.getElem_mem _, covers_formXNN_selected rfl rfl, rfl⟩
  | ldB x => exact ⟨opcodeRows[31], List.getElem_mem _, covers_formXNN_selected rfl rfl, rfl⟩
  | stRegs x => exact ⟨opcodeRows[32], List.getElem_mem _, covers_formXNN_selected rfl rfl, rfl⟩
  | ldRegs x => exact ⟨opcodeRows[33], List.getElem_mem _, covers_formXNN_selected rfl rfl, rfl⟩

/-- The mnemonic names the row (30_encoding.md R103). -/
theorem eq_of_mnemonic_eq {r r' : OpcodeRow} (hr : r ∈ opcodeRows) (hr' : r' ∈ opcodeRows)
    (h : r.mnemonic = r'.mnemonic) : r = r' := by
  have names : ∀ r ∈ opcodeRows, ∀ r' ∈ opcodeRows, r.mnemonic = r'.mnemonic → r = r' := by decide
  exact names r hr r' hr' h

/-- Settles O3: a word meets a row exactly when it is the encoding of an instruction of that row, and decoding gives that
instruction back; so two rows a word meets have the mnemonic of one instruction. -/
theorem decodeSelectsTheOpcodeRow : Obligations.DecodeSelectsTheOpcodeRow := by
  have decodes : ∀ (w : Word) (r : OpcodeRow), r ∈ opcodeRows → r.covers w = true →
      ∃ i, decodeWord w = .ok i ∧ i.mnemonic = r.mnemonic := by
    intro w r hr hc
    obtain ⟨i, ⟨wf, rfl⟩, hi⟩ := exists_encodesTo_of_covers hr hc
    exact ⟨i, decodeWord_encodeWord wf, hi⟩
  refine ⟨rfl, fun w r r' hr hr' hc hc' => ?_, decodes, fun w i h => ?_⟩
  · obtain ⟨i, hi, e⟩ := decodes w r hr hc
    obtain ⟨i', hi', e'⟩ := decodes w r' hr' hc'
    cases hi.symm.trans hi'
    exact eq_of_mnemonic_eq hr hr' (e.symm.trans e')
  · obtain ⟨-, rfl⟩ := encodesTo_of_decodeWord h
    exact exists_covers_encodeWord i

end Sys2Proof
end

section
/-!
PROOFS. Everything an instruction can answer, said once: it records the fault the table of 60_exceptions.md R221 gives it, or
it has its effect. `effect` names the updates of each meaning; every rule about all instructions is a rule about `effect`.
-/
namespace Sys2Proof.Machine
open Sys2Proof.Claims

/-- The state an instruction leaves when it does not fault. -/
def effect : Instr → State → State
  | .cls, s => s.setFb Framebuffer.clear
  | .ret, s => ({ s with stack := s.stack.tail } : State).setPc (s.stack.headD 0)
  | .jp nnn, s => s.setPc (literalWord nnn)
  | .call nnn, s => ({ s with stack := s.pc :: s.stack } : State).setPc (literalWord nnn)
  | .seImm x nn, s => s.setPc (if s.reg x == nn then s.pc + 2 else s.pc)
  | .sneImm x nn, s => s.setPc (if s.reg x != nn then s.pc + 2 else s.pc)
  | .seReg x y, s => s.setPc (if s.reg x == s.reg y then s.pc + 2 else s.pc)
  | .ldImm x nn, s => s.setReg x nn
  | .addImm x nn, s => s.setReg x (s.reg x + nn)
  | .ldReg x y, s => s.setReg x (s.reg y)
  | .or x y, s => s.setReg x (s.reg x ||| s.reg y)
  | .and x y, s => s.setReg x (s.reg x &&& s.reg y)
  | .xor x y, s => s.setReg x (s.reg x ^^^ s.reg y)
  | .addReg x y, s => s.setResult x (s.reg x + s.reg y) (carry (s.reg x) (s.reg y))
  | .sub x y, s => s.setResult x (s.reg x - s.reg y) (noBorrow (s.reg x) (s.reg y))
  | .shr x y, s => s.setResult x (s.shiftValue x y >>> 1) (lowBit (s.shiftValue x y))
  | .subn x y, s => s.setResult x (s.reg y - s.reg x) (noBorrow (s.reg y) (s.reg x))
  | .shl x y, s => s.setResult x (s.shiftValue x y <<< 1) (highBit (s.shiftValue x y))
  | .sneReg x y, s => s.setPc (if s.reg x != s.reg y then s.pc + 2 else s.pc)
  | .ldI nnn, s => s.setIndex (literalWord nnn)
  | .jpOff x nnn, s => s.setPc (s.jumpTarget x nnn)
  | .rnd x nn, s => (s.setReg x (Config.draw s.draws &&& nn)).drawn
  | .drw x y n, s => (s.setFb (s.drawing x y n).fb).setFlag (s.drawing x y n).hit
  | .skp x, s => s.setPc (if s.keyMatches x then s.pc + 2 else s.pc)
  | .sknp x, s => s.setPc (if !s.keyMatches x then s.pc + 2 else s.pc)
  | .ldVxDt x, s => s.setReg x s.dt
  | .ldVxK x, s => s.key.elim (s.setPc (s.pc - 2)) (fun k => s.setReg x (k.setWidth 8))
  | .ldDtVx x, s => s.setDt (s.reg x)
  | .ldStVx x, s => s.setSt (s.reg x)
  | .addI x, s => (s.setIndex (s.index + (s.reg x).setWidth 16)).setFlag
      (indexOverflow s.params.addiThreshold s.index (s.reg x))
  | .ldF x, s => s.setIndex (glyphAddress (s.glyph x))
  | .ldB x, s => { s with mem := Memory.writeAll s.params.fontRom s.mem s.index.toNat (digits (s.reg x)) }
  | .stRegs x, s =>
      ({ s with mem := Memory.writeAll s.params.fontRom s.mem s.index.toNat (s.lowRegs x) } : State).setIndex
        (s.blockIndex x)
  | .ldRegs x, s =>
      (s.setLowRegs ((List.range (x.toNat + 1)).map (fun k => s.byte (s.index.toNat + k)))).setIndex (s.blockIndex x)

/-- An instruction records its fault or has its effect. -/
def outcome (i : Instr) (s : State) : State := (faultOf i s).elim (effect i s) (fun f => s.raiseIn f i)

section Outcome
variable {i : Instr} {s : State}

theorem outcome_of_faultOf_none (h : faultOf i s = none) : outcome i s = effect i s := by
  rw [outcome, h, Option.elim_none]

theorem outcome_of_faultOf_some {f : FaultKind} (h : faultOf i s = some f) : outcome i s = s.raiseIn f i := by
  rw [outcome, h, Option.elim_some]

theorem eq_next_outcome_of_effect {r : Result} (e : r = .next (effect i s)) (h : faultOf i s = none) :
    r = .next (outcome i s) := by
  rw [e, outcome_of_faultOf_none h]

theorem eq_next_outcome_of_raiseIn {r : Result} {f : FaultKind} (e : r = .next (s.raiseIn f i))
    (h : faultOf i s = some f) : r = .next (outcome i s) := by
  rw [e, outcome_of_faultOf_some h]

end Outcome

/-- Every instruction answers its outcome. Six branch where the table of faults says and one on the key latch; a skip is a
write of `pc`, and each of the others has one answer as it stands. -/
theorem exec_eq_next_outcome (i : Instr) (s : State) : exec i s = .next (outcome i s) := by
  cases i with
  | ret =>
    obtain ⟨a, rest, h, e⟩ | ⟨h, e⟩ := execRet_cases s
    · exact eq_next_outcome_of_effect (e.trans (by rw [effect, h]; rfl)) (if_neg (by simp [h]))
    · exact eq_next_outcome_of_raiseIn e (if_pos (by simp [h]))
  | call nnn =>
    obtain ⟨h, e⟩ | ⟨h, e⟩ := execCall_cases s nnn
    · exact eq_next_outcome_of_effect e (if_neg (by omega))
    · exact eq_next_outcome_of_raiseIn e (if_pos h)
  | drw x y n =>
    obtain ⟨h, e⟩ | ⟨h, e⟩ := execDrw_cases s x y n
    · exact eq_next_outcome_of_effect e (if_neg (by omega))
    · exact eq_next_outcome_of_raiseIn e (if_pos (by omega))
  | seImm _ _ | sneImm _ _ | seReg _ _ | sneReg _ _ | skp _ | sknp _ =>
    exact eq_next_outcome_of_effect (congrArg Host.Outcome.next (State.skipIf_eq s _)) rfl
  | ldVxK x =>
    obtain ⟨h, e⟩ | ⟨k, h, e⟩ := execLdVxK_cases s x <;>
      exact eq_next_outcome_of_effect (e.trans (by rw [effect, h]; rfl)) rfl
  | ldB x =>
    obtain ⟨h, e⟩ | ⟨h, e⟩ := execLdB_cases s x
    · exact eq_next_outcome_of_effect e (if_neg (by omega))
    · exact eq_next_outcome_of_raiseIn e (if_pos (by omega))
  | stRegs x =>
    obtain ⟨h, e⟩ | ⟨h, e⟩ := execStRegs_cases s x
    · exact eq_next_outcome_of_effect e (if_neg (by omega))
    · exact eq_next_outcome_of_raiseIn e (if_pos (by omega))
  | ldRegs x =>
    obtain ⟨h, e⟩ | ⟨h, e⟩ := execLdRegs_cases s x
    · exact eq_next_outcome_of_effect e (if_neg (by omega))
    · exact eq_next_outcome_of_raiseIn e (if_pos (by omega))
  | _ => rfl

section Answers
variable {i : Instr} {s t : State}

theorem exec_of_faultOf_none (h : faultOf i s = none) : exec i s = .next (effect i s) := by
  rw [exec_eq_next_outcome, outcome_of_faultOf_none h]

theorem exec_of_faultOf_some {f : FaultKind} (h : faultOf i s = some f) : exec i s = .next (s.raiseIn f i) := by
  rw [exec_eq_next_outcome, outcome_of_faultOf_some h]

theorem eq_outcome_of_exec (h : exec i s = .next t) : t = outcome i s := by
  cases (exec_eq_next_outcome i s).symm.trans h
  rfl

/-- What a next state of an instruction is: the effect, or the state with the fault recorded. -/
theorem exec_cases (h : exec i s = .next t) :
    (faultOf i s = none ∧ t = effect i s) ∨ (∃ f, faultOf i s = some f ∧ t = s.raiseIn f i) := by
  obtain rfl := eq_outcome_of_exec h
  cases hf : faultOf i s with
  | none => exact .inl ⟨rfl, outcome_of_faultOf_none hf⟩
  | some f => exact .inr ⟨f, rfl, outcome_of_faultOf_some hf⟩

end Answers

/-- Settles O44: the outcome is the next state. -/
theorem everyInstructionAnswersANextState : Obligations.EveryInstructionAnswersANextState :=
  fun i s => ⟨outcome i s, exec_eq_next_outcome i s⟩

end Sys2Proof.Machine
end

section
/-!
PROOFS. What no instruction writes, and which instruction writes what is left (10_state.md sections 1 to 8).
-/
namespace Sys2Proof.Machine
open Sys2Proof.Claims

/-! ### What no instruction changes -/

section KeyWait
variable {s : State} (x : Reg)

theorem effect_ldVxK_of_key_none (h : s.key = none) : effect (.ldVxK x) s = s.setPc (s.pc - 2) := by
  rw [effect, h, Option.elim_none]

theorem effect_ldVxK_of_key_some {k : Key} (h : s.key = some k) :
    effect (.ldVxK x) s = s.setReg x (k.setWidth 8) := by
  rw [effect, h, Option.elim_some]

/-- With or without a key LD_VX_K changes `pc` and registers alone. -/
theorem effect_ldVxK_frame :
    effect (.ldVxK x) s = { s with pc := (effect (.ldVxK x) s).pc, v := (effect (.ldVxK x) s).v } := by
  obtain h | ⟨k, h⟩ := Option.eq_none_or_eq_some s.key
  · rw [effect_ldVxK_of_key_none x h]; rfl
  · rw [effect_ldVxK_of_key_some x h]; rfl

end KeyWait

section Frame
variable (i : Instr) (s : State)

/-- No effect touches the key latch, the toggles, the parameters, the fault record or the model's own fields but the count of
draws (10_state.md sections 4 and 8). -/
theorem effect_frame :
    effect i s = { s with v := (effect i s).v, pc := (effect i s).pc, index := (effect i s).index,
                          stack := (effect i s).stack, dt := (effect i s).dt, st := (effect i s).st,
                          mem := (effect i s).mem, fb := (effect i s).fb, draws := (effect i s).draws } := by
  cases i with
  | ldVxK x => rw [effect_ldVxK_frame]
  | _ => rfl

@[simp] theorem effect_key : (effect i s).key = s.key := by rw [effect_frame]
@[simp] theorem effect_quirks : (effect i s).quirks = s.quirks := by rw [effect_frame]
@[simp] theorem effect_params : (effect i s).params = s.params := by rw [effect_frame]
@[simp] theorem effect_fault : (effect i s).fault = s.fault := by rw [effect_frame]
@[simp] theorem effect_faultAddr : (effect i s).faultAddr = s.faultAddr := by rw [effect_frame]
@[simp] theorem effect_faultOpcode : (effect i s).faultOpcode = s.faultOpcode := by rw [effect_frame]
@[simp] theorem effect_schedule : (effect i s).schedule = s.schedule := by rw [effect_frame]
@[simp] theorem effect_loadable : (effect i s).loadable = s.loadable := by rw [effect_frame]
@[simp] theorem effect_loadFailed : (effect i s).loadFailed = s.loadFailed := by rw [effect_frame]

end Frame

/-! ### Which instruction changes what -/

section Writers
variable {i : Instr} (s : State)

theorem effect_stack (h : i.mnemonic ∉ ["CALL", "RET"]) : (effect i s).stack = s.stack := by
  cases i with
  | call nnn => simp [Instr.mnemonic] at h
  | ret => simp [Instr.mnemonic] at h
  | ldVxK x => rw [effect_ldVxK_frame]
  | _ => rfl

theorem effect_dt (h : i.mnemonic ∉ ["LD_DT_VX"]) : (effect i s).dt = s.dt := by
  cases i with
  | ldDtVx x => simp [Instr.mnemonic] at h
  | ldVxK x => rw [effect_ldVxK_frame]
  | _ => rfl

theorem effect_st (h : i.mnemonic ∉ ["LD_ST_VX"]) : (effect i s).st = s.st := by
  cases i with
  | ldStVx x => simp [Instr.mnemonic] at h
  | ldVxK x => rw [effect_ldVxK_frame]
  | _ => rfl

theorem effect_mem (h : i.mnemonic ∉ ["LD_B", "ST_REGS"]) : (effect i s).mem = s.mem := by
  cases i with
  | ldB x => simp [Instr.mnemonic] at h
  | stRegs x => simp [Instr.mnemonic] at h
  | ldVxK x => rw [effect_ldVxK_frame]
  | _ => rfl

theorem effect_fb (h : i.mnemonic ∉ ["CLS", "DRW"]) : (effect i s).fb = s.fb := by
  cases i with
  | cls => simp [Instr.mnemonic] at h
  | drw x y n => simp [Instr.mnemonic] at h
  | ldVxK x => rw [effect_ldVxK_frame]
  | _ => rfl

theorem effect_draws (h : i.mnemonic ∉ ["RND"]) : (effect i s).draws = s.draws := by
  cases i with
  | rnd x nn => simp [Instr.mnemonic] at h
  | ldVxK x => rw [effect_ldVxK_frame]
  | _ => rfl

theorem exec_index_of_not_writer {t : State} (h : exec i s = .next t)
    (hi : i.mnemonic ∉ ["LD_I", "ADD_I", "LD_F", "ST_REGS", "LD_REGS"]) : t.index = s.index := by
  obtain kept | ⟨nnn, rfl, -⟩ | ⟨x, rfl, -⟩ | ⟨x, rfl, -⟩ | ⟨x, rfl | rfl, -⟩ := exec_index_cases h
  · exact kept
  all_goals simp [Instr.mnemonic] at hi

end Writers

theorem sameMemory_of_mem_eq {s t : State} (hmem : t.mem = s.mem) (hparams : t.params = s.params) : SameMemory s t := by
  intro a
  rw [State.byte, State.byte, hmem, hparams]

/-- Settles O49: a recorded fault changes the record alone, and an effect changes only what the instruction names. -/
theorem onlyNamedInstructionsWriteEachState : Obligations.OnlyNamedInstructionsWriteEachState := by
  intro i s t h
  have hindex := exec_index_of_not_writer s h
  obtain ⟨-, rfl⟩ | ⟨f, -, rfl⟩ := exec_cases h
  · exact ⟨effect_key i s, effect_quirks i s, effect_params i s, effect_schedule i s, effect_loadable i s,
      effect_loadFailed i s, hindex, effect_stack s, effect_dt s, effect_st s,
      fun hi => sameMemory_of_mem_eq (effect_mem s hi) (effect_params i s),
      fun hi col row => congrArg (Framebuffer.cell · col row) (effect_fb s hi), effect_draws s⟩
  · exact ⟨rfl, rfl, rfl, rfl, rfl, rfl, hindex, fun _ => rfl, fun _ => rfl, fun _ => rfl,
      fun _ => State.raiseIn_byte s f i, fun _ => State.raiseIn_pixel s f i, fun _ => rfl⟩

/-! ### Registers -/

section Registers
variable {i : Instr} (s : State)

theorem otherRegs_setFlag (c : Bool) : OtherRegs vF s (s.setFlag c) := otherRegs_setReg s vF (flagByte c)

theorem effect_reg {r : Reg} (hd : writesData i r = false) (hf : r = vF → writesFlag i = false) :
    (effect i s).reg r = s.reg r := by
  cases i with
  | ldImm x _ | addImm x _ | ldReg x _ | or x _ | and x _ | xor x _ | ldVxDt x | rnd x _ =>
    exact otherRegs_setReg s x _ r (ne_of_beq_false hd)
  | addReg x _ | sub x _ | shr x _ | subn x _ | shl x _ =>
    exact otherRegsButFlag_setResult s x _ _ r (ne_of_beq_false hd) (fun e => Bool.noConfusion (hf e))
  | drw x y n => exact otherRegs_setFlag (s.setFb _) _ r (fun e => Bool.noConfusion (hf e))
  | addI x => exact otherRegs_setFlag (s.setIndex _) _ r (fun e => Bool.noConfusion (hf e))
  | ldVxK x =>
    cases h : s.key with
    | none => rw [effect_ldVxK_of_key_none x h, State.setPc_reg]
    | some k =>
      rw [effect_ldVxK_of_key_some x h]
      exact otherRegs_setReg s x _ r (ne_of_beq_false hd)
  | ldRegs x =>
    have hx : x.toNat < r.toNat := Nat.lt_of_not_le (of_decide_eq_false hd)
    rw [effect, State.setIndex_reg, State.reg_setLowRegs, dif_neg]
    simp only [List.length_map, List.length_range]
    omega
  | _ => rfl

/-- An effect that writes VF as a flag leaves a flag in it (10_state.md R38, R39). -/
theorem effect_vF (hf : writesFlag i = true) : ∃ c, (effect i s).reg vF = flagByte c := by
  cases i with
  | addReg x _ | sub x _ | shr x _ | subn x _ | shl x _ => exact ⟨_, State.reg_setResult_flag s x _ _⟩
  | drw x y n => exact ⟨_, State.reg_setReg_same (s.setFb _) vF _⟩
  | addI x => exact ⟨_, State.reg_setReg_same (s.setIndex _) vF _⟩
  | _ => cases hf

end Registers

/-- Settles O47: a recorded fault keeps every register, and an effect every register it does not name. -/
theorem registersChangeOnlyAsListed : Obligations.RegistersChangeOnlyAsListed := by
  intro i s t r h hd hf
  obtain ⟨-, rfl⟩ | ⟨f, -, rfl⟩ := exec_cases h
  · exact effect_reg s hd hf
  · exact State.raiseIn_reg s f i r

/-- Settles O48: without a fault the next state is the effect, which leaves a flag byte in VF. -/
theorem flagsAreZeroOrOne : Obligations.FlagsAreZeroOrOne := by
  intro i s t hi hnone h
  obtain ⟨-, rfl⟩ | ⟨f, hsome, -⟩ := exec_cases h
  · obtain ⟨c, hc⟩ := effect_vF s hi
    rw [hc]
    exact flagByte_cases c
  · cases hnone.symm.trans hsome

/-! ### Faults -/

theorem faulted_raiseIn (f : FaultKind) (i : Instr) (s : State) : Faulted f (encodeWord i) s (s.raiseIn f i) :=
  ⟨rfl, State.raiseIn_byte s f i⟩

/-- Settles O45: an effect keeps the empty record, and a fault of the table is recorded and changes nothing else. -/
theorem faultsAreTheTablesAndPrecise : Obligations.FaultsAreTheTablesAndPrecise := by
  intro i s t hs h
  obtain ⟨hnone, rfl⟩ | ⟨f, hsome, rfl⟩ := exec_cases h
  · refine ⟨by rw [effect_fault, hs, hnone], fun f hsome => ?_⟩
    cases hnone.symm.trans hsome
  · refine ⟨by rw [State.raiseIn_fault, hsome], fun f' hsome' => ?_⟩
    cases hsome.symm.trans hsome'
    exact faulted_raiseIn f i s

/-! ### Where `pc` goes -/

section ProgramCounter
variable (s : State)

theorem toNat_pc_add_two (h : s.pc.toNat ≤ 4096) : (s.pc + 2).toNat = s.pc.toNat + 2 := by
  rw [BitVec.toNat_add]
  exact Nat.mod_eq_of_lt (show s.pc.toNat + 2 < 65536 by omega)

theorem toNat_pc_sub_two (h : 2 ≤ s.pc.toNat) : (s.pc - 2).toNat = s.pc.toNat - 2 :=
  BitVec.toNat_sub_of_le (BitVec.le_def.mpr h)

/-- A skip on `c` as the list of 10_state.md R35 has it, whatever `c` tests. -/
theorem toNat_pc_skip (h : s.pc.toNat ≤ 4096) {c : Bool} {P : Prop} [Decidable P] (hc : c = true ↔ P) :
    (if c then s.pc + 2 else s.pc).toNat = if P then s.pc.toNat + 2 else s.pc.toNat := by
  simp only [hc]
  split
  · exact toNat_pc_add_two s h
  · rfl

/-- The latched key against all 8 bits of a register (45_keypad_timers.md R190). -/
theorem State.keyMatches_iff (x : Reg) : s.keyMatches x = true ↔ s.key.map BitVec.toNat = some (s.reg x).toNat := by
  unfold State.keyMatches
  cases s.key with
  | none => simp
  | some k => simp only [beq_iff_eq, ← BitVec.toNat_inj, toNat_setWidth_key, Option.map_some, Option.some.injEq]

theorem State.not_keyMatches_iff (x : Reg) :
    (!s.keyMatches x) = true ↔ ¬ s.key.map BitVec.toNat = some (s.reg x).toNat := by
  rw [← State.keyMatches_iff, Bool.not_eq_true', Bool.not_eq_true]

theorem toNat_jumpTarget (x : Reg) (nnn : Addr) :
    (s.jumpTarget x nnn).toNat = nnn.toNat + (if s.quirks.jump then (s.reg x).toNat else 0) := by
  have hn : nnn.toNat < 4096 := nnn.isLt
  have hr : (s.reg x).toNat < 256 := (s.reg x).isLt
  unfold State.jumpTarget
  split
  · rw [BitVec.toNat_add, toNat_literalWord, BitVec.toNat_setWidth_of_le (by decide)]
    exact Nat.mod_eq_of_lt (by omega)
  · rw [toNat_literalWord, Nat.add_zero]

theorem toNat_effect_pc (i : Instr) (lo : 2 ≤ s.pc.toNat) (hi : s.pc.toNat ≤ 4096) :
    (effect i s).pc.toNat = pcAfter i s := by
  cases i with
  | jp nnn | call nnn => exact toNat_literalWord nnn
  | jpOff x nnn => exact toNat_jumpTarget s x nnn
  | seImm x nn => exact toNat_pc_skip s hi beq_iff_eq
  | seReg x y => exact toNat_pc_skip s hi beq_iff_eq
  | skp x => exact toNat_pc_skip s hi (s.keyMatches_iff x)
  | sneImm x nn => exact (toNat_pc_skip s hi bne_iff_ne).trans (ite_not ..)
  | sneReg x y => exact (toNat_pc_skip s hi bne_iff_ne).trans (ite_not ..)
  | sknp x => exact (toNat_pc_skip s hi (s.not_keyMatches_iff x)).trans (ite_not ..)
  | ldVxK x =>
    cases h : s.key with
    | none =>
      rw [effect_ldVxK_of_key_none x h, pcAfter, if_pos h]
      exact toNat_pc_sub_two s lo
    | some k => rw [effect_ldVxK_of_key_some x h, pcAfter, if_neg (by simp [h]), State.setReg_pc]
  | _ => rfl

end ProgramCounter

/-- Settles O46: an effect leaves `pc` where the list has it, and a recorded fault leaves it alone. -/
theorem pcAfterEveryInstruction : Obligations.PcAfterEveryInstruction := by
  intro i s t lo hi h
  obtain ⟨hnone, rfl⟩ | ⟨f, hsome, rfl⟩ := exec_cases h
  · exact ⟨fun _ => toNat_effect_pc s i lo hi, fun hne => absurd hnone hne⟩
  · exact ⟨fun hnone => (nomatch hnone.symm.trans hsome), fun _ => rfl⟩

/-! ### Instructions against the timers and the key latch -/

section Commuting
variable {i : Instr} (s : State)

theorem faultOf_tick : faultOf i s.tick = faultOf i s := by cases i <;> rfl

theorem effect_tick (h : i.mnemonic ∉ ["LD_VX_DT", "LD_DT_VX", "LD_ST_VX"]) :
    effect i s.tick = (effect i s).tick := by
  cases i with
  | ldVxDt x | ldDtVx x | ldStVx x => simp [Instr.mnemonic] at h
  | ldVxK x =>
    cases hk : s.key with
    | none => rw [effect_ldVxK_of_key_none x hk, effect_ldVxK_of_key_none x (s.tick_key.trans hk)]; rfl
    | some k => rw [effect_ldVxK_of_key_some x hk, effect_ldVxK_of_key_some x (s.tick_key.trans hk)]; rfl
  | _ => rfl

theorem outcome_tick (h : i.mnemonic ∉ ["LD_VX_DT", "LD_DT_VX", "LD_ST_VX"]) :
    outcome i s.tick = (outcome i s).tick := by
  rw [outcome, outcome, faultOf_tick, effect_tick s h]
  cases faultOf i s <;> rfl

theorem faultOf_setKey (k : Option Key) : faultOf i (s.setKey k) = faultOf i s := by cases i <;> rfl

theorem effect_setKey (k : Option Key) (h : i.mnemonic ∉ ["SKP", "SKNP", "LD_VX_K"]) :
    effect i (s.setKey k) = (effect i s).setKey k := by
  cases i with
  | skp x | sknp x | ldVxK x => simp [Instr.mnemonic] at h
  | _ => rfl

theorem outcome_setKey (k : Option Key) (h : i.mnemonic ∉ ["SKP", "SKNP", "LD_VX_K"]) :
    outcome i (s.setKey k) = (outcome i s).setKey k := by
  rw [outcome, outcome, faultOf_setKey, effect_setKey s k h]
  cases faultOf i s <;> rfl

end Commuting

/-- Settles O51: the timers are read by one instruction and written by two, and no fault depends on them. -/
theorem ticksCommuteWithOtherInstructions : Obligations.TicksCommuteWithOtherInstructions := by
  intro i s t hi h
  rw [exec_eq_next_outcome, outcome_tick s hi, ← eq_outcome_of_exec h]

/-- Settles O52: the latch is read by three instructions and written by none, and no fault depends on it. -/
theorem keyUpdatesCommuteWithOtherInstructions : Obligations.KeyUpdatesCommuteWithOtherInstructions := by
  intro i s t k hi h
  rw [exec_eq_next_outcome, outcome_setKey s k hi, ← eq_outcome_of_exec h]

end Sys2Proof.Machine
end

section
/-!
PROOFS. JP_OFF, CALL and RET (40_flow.md R130, R132, R133): which of the two answers of a call and of a return is given.
-/
namespace Sys2Proof

@[simp] theorem toNat_opX (w : Word) : (opX w).toNat = w.toNat / 256 % 16 := by
  rw [opX, BitVec.extractLsb'_toNat, Nat.shiftRight_eq_div_pow]

theorem toNat_formNNN (g : BitVec 4) (nnn : Addr) : (formNNN g nnn).toNat = g.toNat * 4096 + nnn.toNat := by
  rw [formNNN, BitVec.toNat_append, ← Nat.shiftLeft_add_eq_or_of_lt nnn.isLt, Nat.shiftLeft_eq]

end Sys2Proof

namespace Sys2Proof.Machine
open Sys2Proof.Claims

theorem exec_jpOff (x : Reg) (nnn : Addr) (s : State) : exec (.jpOff x nnn) s = .next (s.setPc (s.jumpTarget x nnn)) :=
  rfl

/-- Settles O17: a word of group B decodes to JP_OFF of its X and its NNN, and JP_OFF only sets `pc`, to a sum that cannot
wrap. -/
theorem jpOffAddsTheRegisterUnderItsToggle : Obligations.JpOffAddsTheRegisterUnderItsToggle := by
  refine ⟨fun w hw => ?_, fun x nnn s => ?_⟩
  · exact ⟨opX w, opNNN w, toNat_opX w, toNat_opNNN w, decodeWord_jpOff (opG_eq_of_toNat_div hw)⟩
  · refine ⟨s.setPc (s.jumpTarget x nnn), exec_jpOff x nnn s, ?_, onlyPc_setPc s _⟩
    rw [State.setPc_pc, toNat_jumpTarget]
    split <;> rfl

section CallAndReturn
variable {s : State} {nnn : Addr}

theorem exec_call_of_room (h : s.stack.length < s.params.stackDepth) :
    exec (.call nnn) s = .next (({ s with stack := s.pc :: s.stack } : State).setPc (literalWord nnn)) :=
  exec_of_faultOf_none (if_neg (by omega))

theorem exec_call_of_full (h : s.params.stackDepth ≤ s.stack.length) :
    exec (.call nnn) s = .next (s.raiseIn .stackOverflow (.call nnn)) :=
  exec_of_faultOf_some (if_pos h)

theorem exec_ret_of_cons {a : Word} {rest : List Word} (h : s.stack = a :: rest) :
    exec .ret s = .next (({ s with stack := rest } : State).setPc a) := by
  have hnone : faultOf .ret s = none := if_neg (by simp [h])
  rw [exec_of_faultOf_none hnone, effect, h]
  rfl

theorem exec_ret_of_nil (h : s.stack = []) : exec .ret s = .next (s.raiseIn .stackUnderflow .ret) :=
  exec_of_faultOf_some (if_pos (by simp [h]))

end CallAndReturn

/-- Settles O18: with room a call pushes and jumps, and with an entry a return pops and jumps. -/
theorem callPushesAndRetPops : Obligations.CallPushesAndRetPops := by
  refine ⟨fun nnn s h => ?_, fun s a rest h => ?_⟩
  · exact ⟨_, exec_call_of_room h, rfl, toNat_literalWord nnn, rfl, fun _ => rfl⟩
  · exact ⟨_, exec_ret_of_cons h, rfl, rfl, rfl, fun _ => rfl⟩

/-- The word of a call as a number (30_encoding.md R103). -/
theorem encodeWord_call (nnn : Addr) : encodeWord (.call nnn) = BitVec.ofNat 16 (0x2000 + nnn.toNat) := by
  have hn : nnn.toNat < 4096 := nnn.isLt
  apply BitVec.eq_of_toNat_eq
  rw [encodeWord, toNat_formNNN]
  exact (Nat.mod_eq_of_lt (show 0x2000 + nnn.toNat < 65536 by omega)).symm

/-- Settles O19: each stack fault is a recorded fault, whose word is the instruction's encoding. -/
theorem stackFaultsChangeOnlyTheRecord : Obligations.StackFaultsChangeOnlyTheRecord := by
  refine ⟨fun s h => ?_, fun nnn s h => ?_⟩
  · exact ⟨_, exec_ret_of_nil h, faulted_raiseIn .stackUnderflow .ret s⟩
  · refine ⟨_, exec_call_of_full h, ?_⟩
    rw [← encodeWord_call]
    exact faulted_raiseIn .stackOverflow (.call nnn) s

/-- Settles O20: the call leaves its return address on top of the caller's stack, and the return takes it from there. -/
theorem callThenRetResumes : Obligations.CallThenRetResumes := by
  intro nnn s t u room hcall hu
  cases (exec_call_of_room room).symm.trans hcall
  exact ⟨_, exec_ret_of_cons hu, rfl, rfl⟩

end Sys2Proof.Machine
end

section
/-!
PROOFS. The instructions of 41_skip.md, 42_const.md, 43_alu.md and 45_keypad_timers.md that are left: each is one of the
named writes, so the rule of that write gives its frame.
-/
namespace Sys2Proof

theorem decodeWord_formXYN_group5_error (x y : Reg) {n : Nibble} (h : n ≠ 0) :
    decodeWord (formXYN 0x5#4 x y n) = .error .group5 := by
  rw [decodeWord_formXYN_group5, decodeGroup5, opN_formXYN]
  exact if_neg h

theorem decodeWord_formXYN_group9_error (x y : Reg) {n : Nibble} (h : n ≠ 0) :
    decodeWord (formXYN 0x9#4 x y n) = .error .group9 := by
  rw [decodeWord_formXYN_group9, decodeGroup9, opN_formXYN]
  exact if_neg h

end Sys2Proof

namespace Sys2Proof.Machine
open Sys2Proof.Claims

section Meanings
variable (x y : Reg) (nn : Byte) (s : State)

theorem exec_seReg : exec (.seReg x y) s = .next (s.skipIf (s.reg x == s.reg y)) := rfl

theorem exec_sneReg : exec (.sneReg x y) s = .next (s.skipIf (s.reg x != s.reg y)) := rfl

theorem exec_skp : exec (.skp x) s = .next (s.skipIf (s.keyMatches x)) := rfl

theorem exec_sknp : exec (.sknp x) s = .next (s.skipIf (!s.keyMatches x)) := rfl

theorem exec_ldReg : exec (.ldReg x y) s = .next (s.setReg x (s.reg y)) := rfl

theorem exec_or : exec (.or x y) s = .next (s.setReg x (s.reg x ||| s.reg y)) := rfl

theorem exec_and : exec (.and x y) s = .next (s.setReg x (s.reg x &&& s.reg y)) := rfl

theorem exec_xor : exec (.xor x y) s = .next (s.setReg x (s.reg x ^^^ s.reg y)) := rfl

theorem exec_rnd : exec (.rnd x nn) s = .next ((s.setReg x (Config.draw s.draws &&& nn)).drawn) := rfl

theorem exec_ldF : exec (.ldF x) s = .next (s.setIndex (glyphAddress (s.glyph x))) := rfl

theorem exec_addI : exec (.addI x) s = .next ((s.setIndex (s.index + (s.reg x).setWidth 16)).setFlag
    (indexOverflow s.params.addiThreshold s.index (s.reg x))) := rfl

end Meanings

/-- Settles O22: groups 5 and 9 decode with low nibble 0 alone, and each of the two is a skip on its own test. -/
theorem registerSkips : Obligations.RegisterSkips := by
  refine ⟨fun x y => ⟨decodeWord_formXYN_seReg x y, decodeWord_formXYN_sneReg x y⟩,
    fun x y n h => ⟨decodeWord_formXYN_group5_error x y h, decodeWord_formXYN_group9_error x y h⟩,
    fun x y s => ⟨?_, ?_⟩⟩
  · exact skips_of_exec_eq_skipIf (exec_seReg x y s) beq_iff_eq
  · exact skips_of_exec_eq_skipIf (exec_sneReg x y s) bne_iff_ne

theorem State.keyMatches_iff_exists (s : State) (x : Reg) :
    s.keyMatches x = true ↔ ∃ k, s.key = some k ∧ k.toNat = (s.reg x).toNat := by
  rw [State.keyMatches_iff, Option.map_eq_some_iff]

/-- Settles O33: both are skips on the same test, one on its negation. -/
theorem keySkipsAreComplements : Obligations.KeySkipsAreComplements := by
  intro x s
  have hmatch := s.keyMatches_iff_exists x
  refine ⟨skips_of_exec_eq_skipIf (exec_skp x s) hmatch, ?_⟩
  have hmiss : (!s.keyMatches x) = true ↔ ¬ ∃ k, s.key = some k ∧ k.toNat = (s.reg x).toNat := by
    rw [← hmatch, Bool.not_eq_true', Bool.not_eq_true]
  obtain ⟨t, he, hpc, frame⟩ := skips_of_exec_eq_skipIf (exec_sknp x s) hmiss
  exact ⟨t, he, hpc.trans (ite_not ..), frame⟩

/-- Settles O24: RND writes `V[X]` and counts the draw, and a byte under a mask has no bit outside it. -/
theorem rndDrawsUnderTheMask : Obligations.RndDrawsUnderTheMask := by
  intro x nn s
  have hx : (s.setReg x (Config.draw s.draws &&& nn)).drawn.reg x = Config.draw s.draws &&& nn :=
    State.reg_setReg_same s x _
  refine ⟨_, exec_rnd x nn s, hx, ?_, otherRegs_setReg s x _, rfl, fun _ => rfl⟩
  rw [hx, BitVec.and_assoc, BitVec.and_not_self]
  exact BitVec.and_zero

/-- Settles O25: each writes `V[X]` alone, with a value that is bit by bit that of the operands. -/
theorem copyAndLogicWriteNoFlag : Obligations.CopyAndLogicWriteNoFlag := by
  intro x y s
  refine ⟨writes_of_exec_eq_setReg (exec_ldReg x y s), ?_, ?_, ?_⟩
  · obtain ⟨t, he, hx, frame⟩ := writes_of_exec_eq_setReg (exec_or x y s)
    exact ⟨t, he, fun k => by rw [hx, BitVec.getLsbD_or], frame⟩
  · obtain ⟨t, he, hx, frame⟩ := writes_of_exec_eq_setReg (exec_and x y s)
    exact ⟨t, he, fun k => by rw [hx, BitVec.getLsbD_and], frame⟩
  · obtain ⟨t, he, hx, frame⟩ := writes_of_exec_eq_setReg (exec_xor x y s)
    exact ⟨t, he, fun k => by rw [hx, BitVec.getLsbD_xor], frame⟩

/-- A glyph's address does not wrap: the largest is 0x050 plus five times 255 (44_display.md R183). -/
theorem toNat_glyphAddress {d : Nat} (h : d < 256) : (glyphAddress d).toNat = 0x050 + 5 * d := by
  rw [glyphAddress, BitVec.toNat_ofNat]
  exact Nat.mod_eq_of_lt (show 0x050 + 5 * d < 65536 by omega)

/-- Settles O32: LD_F only sets `I`, to the address of the glyph the mask selects. -/
theorem ldFPointsAtTheGlyph : Obligations.LdFPointsAtTheGlyph := by
  intro x s
  have hr : (s.reg x).toNat < 256 := (s.reg x).isLt
  refine ⟨_, exec_ldF x s, ?_, onlyIndex_setIndex s _⟩
  rw [State.setIndex_index]
  cases hm : s.params.fontIndexMask with
  | true => rw [State.glyph, hm, if_pos rfl, toNat_glyphAddress (by omega), if_pos rfl]
  | false => rw [State.glyph, hm, if_neg (by decide), toNat_glyphAddress hr, if_neg (by decide)]

/-- Settles O37: the sum of words is the sum modulo 65536, and the flag compares the unreduced one. -/
theorem addISetsTheRangeFlag : Obligations.AddISetsTheRangeFlag := by
  intro x s
  refine ⟨_, exec_addI x s, ?_, ?_, otherRegs_setFlag (s.setIndex _) _, rfl, fun _ => rfl⟩
  · rw [State.setFlag_index, State.setIndex_index, BitVec.toNat_add, BitVec.toNat_setWidth_of_le (by decide)]
  · rw [State.reg_setFlag, if_pos rfl]
    exact flagByte_decide _

/-- Settles O42: each range condition is the one the table of faults has, and the record holds the instruction's word. -/
theorem dataOutOfRangeChangesOnlyTheRecord : Obligations.DataOutOfRangeChangesOnlyTheRecord := by
  refine ⟨fun x y n s hn h => ?_, fun x s h => ?_, fun x s h => ⟨?_, ?_⟩⟩
  · have hpos : 0 < n.toNat := Nat.pos_of_ne_zero fun h0 => hn (BitVec.eq_of_toNat_eq h0)
    exact ⟨_, exec_of_faultOf_some (if_pos ⟨hpos, h⟩), faulted_raiseIn .memOutOfRange (.drw x y n) s⟩
  · exact ⟨_, exec_of_faultOf_some (if_pos h), faulted_raiseIn .memOutOfRange (.ldB x) s⟩
  · exact ⟨_, exec_of_faultOf_some (if_pos h), faulted_raiseIn .memOutOfRange (.stRegs x) s⟩
  · exact ⟨_, exec_of_faultOf_some (if_pos h), faulted_raiseIn .memOutOfRange (.ldRegs x) s⟩

end Sys2Proof.Machine
end

section
/-!
PROOFS. The stores and the block load (46_index_memory.md R202, R203, R204): the byte at every address after a store, and the
register a block load fills.
-/
namespace Sys2Proof.Machine
open Sys2Proof.Claims

/-- A block just written inside a canonical memory, at every address. -/
theorem Memory.read_writeAll (rom : FontRom) {bs : List Byte} {m : Memory} {a : Nat} (hwf : Memory.wf rom m = true)
    (ha : a + bs.length ≤ memSize) (a' : Nat) :
    Memory.read rom (Memory.writeAll rom m a bs) a' =
      if a ≤ a' ∧ a' < a + bs.length then bs.getD (a' - a) 0 else Memory.read rom m a' := by
  split
  · next h =>
    obtain ⟨k, rfl⟩ := Nat.exists_eq_add_of_le h.1
    have hk : k < bs.length := by omega
    rw [Memory.read_writeAll_inside rom hwf ha hk, Nat.add_sub_cancel_left, List.getD_eq_getElem?_getD,
      List.getElem?_eq_getElem hk, Option.getD_some]
  · exact Memory.read_writeAll_outside rom (by omega)

section Block
variable {s : State} {x : Reg}

theorem getElem_lowRegs_ofNat {k : Nat} (h : k < (s.lowRegs x).length) :
    (s.lowRegs x)[k] = s.reg (BitVec.ofNat 4 k) := by
  have hk : k < 16 := by
    rw [State.length_lowRegs] at h
    omega
  have e : (BitVec.ofNat 4 k).toNat = k := Nat.mod_eq_of_lt hk
  simpa only [e] using s.getElem_lowRegs x (BitVec.ofNat 4 k) (by rwa [e])

/-- `V[0..x]` depends on nothing but its registers. -/
theorem lowRegs_congr {s' : State} (h : ∀ y : Reg, y.toNat ≤ x.toNat → s'.reg y = s.reg y) :
    s'.lowRegs x = s.lowRegs x := by
  refine List.ext_getElem (by simp only [State.length_lowRegs]) fun k hk' hk => ?_
  rw [getElem_lowRegs_ofNat, getElem_lowRegs_ofNat]
  apply h
  rw [State.length_lowRegs] at hk
  exact Nat.le_trans (Nat.mod_le ..) (by omega)

/-- `I` after a block inside memory: the sum does not wrap (46_index_memory.md R203). -/
theorem toNat_blockIndex (fits : s.index.toNat + x.toNat ≤ 4095) :
    (s.blockIndex x).toNat = if s.quirks.mem then s.index.toNat else s.index.toNat + x.toNat + 1 := by
  unfold State.blockIndex
  split
  · rfl
  · exact Nat.mod_eq_of_lt (show s.index.toNat + x.toNat + 1 < 65536 by omega)

/-! ### LD_B -/

theorem exec_ldB_of_fits (fits : s.index.toNat + 2 ≤ 4095) : exec (.ldB x) s = .next (effect (.ldB x) s) :=
  exec_of_faultOf_none (if_neg (by omega))

theorem digitByte_outside {a : Nat} (h : a < s.index.toNat ∨ s.index.toNat + 2 < a) : digitByte s x a = s.byte a := by
  rw [digitByte, if_neg (by omega), if_neg (by omega), if_neg (by omega)]

theorem byte_effect_ldB (fits : s.index.toNat + 2 ≤ 4095) (hwf : Memory.wf s.params.fontRom s.mem = true) (a : Nat) :
    (effect (.ldB x) s).byte a = digitByte s x a := by
  refine (Memory.read_writeAll _ (bs := digits (s.reg x)) hwf (show s.index.toNat + 3 ≤ 4096 by omega) a).trans ?_
  rw [show (digits (s.reg x)).length = 3 from rfl]
  by_cases inside : s.index.toNat ≤ a ∧ a < s.index.toNat + 3
  · rw [if_pos inside, digitByte]
    obtain rfl | rfl | rfl : a = s.index.toNat ∨ a = s.index.toNat + 1 ∨ a = s.index.toNat + 2 := by omega
    · rw [Nat.sub_self, if_pos rfl]; rfl
    · rw [Nat.add_sub_cancel_left, if_neg (by omega), if_pos rfl]; rfl
    · rw [Nat.add_sub_cancel_left, if_neg (by omega), if_neg (by omega), if_pos rfl]; rfl
  · rw [if_neg inside, digitByte_outside (by omega)]; rfl

/-! ### ST_REGS -/

theorem exec_stRegs_of_fits (fits : s.index.toNat + x.toNat ≤ 4095) :
    exec (.stRegs x) s = .next (effect (.stRegs x) s) :=
  exec_of_faultOf_none (if_neg (by omega))

theorem byte_effect_stRegs (fits : s.index.toNat + x.toNat ≤ 4095) (hwf : Memory.wf s.params.fontRom s.mem = true)
    (a : Nat) : (effect (.stRegs x) s).byte a = blockByte s x a := by
  have hlen : s.index.toNat + (s.lowRegs x).length ≤ memSize := by
    rw [State.length_lowRegs, memSize]
    omega
  refine (Memory.read_writeAll _ hwf hlen a).trans ?_
  rw [blockByte, State.length_lowRegs]
  by_cases h : s.index.toNat ≤ a ∧ a ≤ s.index.toNat + x.toNat
  · have hk : a - s.index.toNat < (s.lowRegs x).length := by
      rw [State.length_lowRegs]
      omega
    rw [if_pos h, if_pos (by omega), List.getD_eq_getElem?_getD, List.getElem?_eq_getElem hk, Option.getD_some,
      getElem_lowRegs_ofNat]
  · rw [if_neg h, if_neg (by omega)]
    rfl

theorem blockByte_inside {y : Reg} (h : y.toNat ≤ x.toNat) : blockByte s x (s.index.toNat + y.toNat) = s.reg y := by
  rw [blockByte, if_pos (by omega), Nat.add_sub_cancel_left, BitVec.ofNat_toNat, BitVec.setWidth_eq]

theorem blockByte_outside {a : Nat} (h : a < s.index.toNat ∨ s.index.toNat + x.toNat < a) :
    blockByte s x a = s.byte a := if_neg (by omega)

/-! ### LD_REGS -/

theorem exec_ldRegs_of_fits (fits : s.index.toNat + x.toNat ≤ 4095) :
    exec (.ldRegs x) s = .next (effect (.ldRegs x) s) :=
  exec_of_faultOf_none (if_neg (by omega))

theorem reg_effect_ldRegs (y : Reg) :
    (effect (.ldRegs x) s).reg y = if y.toNat ≤ x.toNat then s.byte (s.index.toNat + y.toNat) else s.reg y := by
  rw [effect, State.setIndex_reg, State.reg_setLowRegs]
  by_cases h : y.toNat ≤ x.toNat
  · rw [dif_pos (by rw [List.length_map, List.length_range]; omega), if_pos h, List.getElem_map, List.getElem_range]
  · rw [dif_neg (by rw [List.length_map, List.length_range]; omega), if_neg h]

end Block

/-- Settles O38: inside memory LD_B has its effect, which at each of the three addresses is a digit. -/
theorem ldBStoresTheDigits : Obligations.LdBStoresTheDigits := by
  intro x s fits hwf
  have hr : (s.reg x).toNat < 256 := (s.reg x).isLt
  have hbyte := byte_effect_ldB (x := x) fits hwf
  refine ⟨_, exec_ldB_of_fits fits, ?_, ?_, ?_, fun a ha => ?_, rfl⟩
  · rw [hbyte, digitByte, if_pos rfl]
    exact Nat.mod_eq_of_lt (by omega)
  · rw [hbyte, digitByte, if_neg (by omega), if_pos rfl]
    exact Nat.mod_eq_of_lt (by omega)
  · rw [hbyte, digitByte, if_neg (by omega), if_neg (by omega), if_pos rfl]
    exact Nat.mod_eq_of_lt (by omega)
  · rw [hbyte, digitByte_outside ha]

/-- Settles O39: inside memory ST_REGS has its effect, the block in memory and `I` after it. -/
theorem stRegsStoresTheBlock : Obligations.StRegsStoresTheBlock := by
  intro x s fits hwf
  have hbyte := byte_effect_stRegs (x := x) fits hwf
  exact ⟨_, exec_stRegs_of_fits fits, fun y hy => (hbyte _).trans (blockByte_inside hy),
    fun a ha => (hbyte a).trans (blockByte_outside ha), toNat_blockIndex fits, rfl⟩

/-- Settles O40: inside memory LD_REGS has its effect, which fills the low registers from memory. -/
theorem ldRegsLoadsTheBlock : Obligations.LdRegsLoadsTheBlock := by
  intro x s fits
  exact ⟨_, exec_ldRegs_of_fits fits, fun y hy => (reg_effect_ldRegs y).trans (if_pos hy),
    fun y hy => (reg_effect_ldRegs y).trans (if_neg (by omega)), toNat_blockIndex fits, rfl, fun _ => rfl⟩

/-- Settles O41: the load reads at `I + y` what the store left there, which is `V[y]`. -/
theorem storedRegistersLoadBack : Obligations.StoredRegistersLoadBack := by
  intro x s t u fits hwf hst hmem hparams hindex
  obtain ⟨t', hst', stored, -⟩ := stRegsStoresTheBlock x s fits hwf
  cases hst.symm.trans hst'
  obtain ⟨r, hld, loaded, -⟩ := ldRegsLoadsTheBlock x u (hindex ▸ fits)
  refine ⟨r, hld, fun y hy => ?_⟩
  rw [loaded y hy, hindex, sameMemory_of_mem_eq hmem hparams, stored y hy]

/-- A fetch inside memory reads the two bytes at `pc` (20_memory.md R80). -/
theorem State.fetch_eq_some {s : State} (h : s.pc.toNat ≤ 4094) :
    s.fetch = some (wordOfBytes (s.byte s.pc.toNat) (s.byte (s.pc.toNat + 1)), s.setPc (s.pc + 2)) := by
  obtain ⟨-, e⟩ | ⟨hge, -⟩ := s.fetch_eq
  · exact e
  · omega

/-- Settles O43: neither store moves `pc`, so the next fetch reads the two bytes there as the store left them. -/
theorem storedBytesAreFetchedNext : Obligations.StoredBytesAreFetchedNext := by
  refine ⟨fun x s t fits hwf h hpc => ?_, fun x s t fits hwf h hpc => ?_⟩
  · cases (exec_stRegs_of_fits fits).symm.trans h
    refine (State.fetch_eq_some (s := effect (.stRegs x) s) hpc).trans ?_
    rw [byte_effect_stRegs fits hwf, byte_effect_stRegs fits hwf]
    rfl
  · cases (exec_ldB_of_fits fits).symm.trans h
    refine (State.fetch_eq_some (s := effect (.ldB x) s) hpc).trans ?_
    rw [byte_effect_ldB fits hwf, byte_effect_ldB fits hwf]
    rfl

section Operands
variable {x : Reg} {s s' t t' : State}

/-- The range condition of a store is about `I` alone, so two stores that agree on `I` both fault or both store. -/
theorem mem_eq_of_exec {i : Instr} (hfault : faultOf i s' = faultOf i s) (hmem : s'.mem = s.mem)
    (heffect : (effect i s').mem = (effect i s).mem) (h : exec i s = .next t) (h' : exec i s' = .next t') :
    t'.mem = t.mem := by
  obtain rfl := eq_outcome_of_exec h
  obtain rfl := eq_outcome_of_exec h'
  rw [outcome, outcome, hfault]
  cases faultOf i s with
  | none => exact heffect
  | some f => exact hmem

end Operands

/-- Settles O50: outside its block a store's write reads as before, and what it writes is made of its operands. -/
theorem storesTouchOnlyTheirOwnBytes : Obligations.StoresTouchOnlyTheirOwnBytes := by
  refine ⟨fun x s t a h ha => ?_, fun x s t a h ha => ?_, ?_, ?_⟩
  · obtain ⟨-, rfl⟩ | ⟨f, -, rfl⟩ := exec_cases h
    · exact Memory.read_writeAll_outside _ (show a < s.index.toNat ∨ s.index.toNat + 3 ≤ a by omega)
    · rfl
  · obtain ⟨-, rfl⟩ | ⟨f, -, rfl⟩ := exec_cases h
    · exact Memory.read_writeAll_outside _ (by rw [State.length_lowRegs]; omega)
    · rfl
  · intro x s s' t t' hindex hmem hrom hreg h h'
    refine mem_eq_of_exec (by simp only [faultOf, hindex]) hmem ?_ h h'
    simp only [effect, hindex, hmem, hrom, hreg]
  · intro x s s' t t' hindex hmem hrom hreg h h'
    refine mem_eq_of_exec (by simp only [faultOf, hindex]) hmem ?_ h h'
    simp only [effect, State.setIndex_mem, hindex, hmem, hrom, lowRegs_congr hreg]

end Sys2Proof.Machine
end

section
/-!
PROOFS. DRW (44_display.md R181, R182): the drawn canvas against the sprite's bits as the statements read them.
-/
namespace Sys2Proof.Machine
open Sys2Proof.Claims

/-- The rows DRW reads from memory, the first at `I`. -/
def State.spriteRows (s : State) (n : Nibble) : List Byte := (List.range n.toNat).map (fun k => s.byte (s.base + k))

section Sprite
variable (s : State) (x y : Reg) (n : Nibble)

theorem drawing_eq_drawRows :
    s.drawing x y n = drawRows (s.originX x) (s.originY y) (s.spriteRows n) { fb := s.fb, hit := false } := rfl

/-- Below its last row a sprite has no bit. -/
theorem getD_spriteRows (r : Nat) :
    ((s.spriteRows n)[r]?).getD 0 = if r < n.toNat then s.byte (s.index.toNat + r) else 0 := by
  split <;> simp [*, State.spriteRows, State.base]

/-- A sprite bit by its column and row counted from the origin. -/
theorem spriteBit_origin_add (k r : Nat) :
    spriteBit s x y n (s.originX x + k) (s.originY y + r) =
      (decide (k < 8 ∧ r < n.toNat) && (s.byte (s.index.toNat + r)).getLsbD (7 - k)) := by
  simp only [spriteBit, State.originX, State.originY, fbWidth, fbHeight]
  congr 1
  · exact decide_eq_decide.mpr (by omega)
  · rw [Nat.add_sub_cancel_left, Nat.add_sub_cancel_left]

/-- Left of the origin or above it a sprite has no bit. -/
theorem spriteBit_before_origin {col row : Nat} (h : col < s.originX x ∨ row < s.originY y) :
    spriteBit s x y n col row = false := by
  simp only [State.originX, State.originY, fbWidth, fbHeight] at h
  simp only [spriteBit, Bool.and_eq_false_iff, decide_eq_false_iff_not]
  exact .inl (by omega)

theorem cell_drawing {col row : Nat} (hcol : col < 64) (hrow : row < 32) :
    Framebuffer.cell (s.drawing x y n).fb col row = (s.pixel col row ^^ spriteBit s x y n col row) := by
  rw [drawing_eq_drawRows, cell_drawRows, State.pixel]
  congr 1
  by_cases h : s.originX x ≤ col ∧ s.originY y ≤ row
  · obtain ⟨k, rfl⟩ := Nat.exists_eq_add_of_le h.1
    obtain ⟨r, rfl⟩ := Nat.exists_eq_add_of_le h.2
    rw [spriteBit_origin_add, Nat.add_sub_cancel_left, Nat.add_sub_cancel_left, getD_spriteRows]
    by_cases hr : r < n.toNat <;> simp [hr, hcol, hrow]
  · rw [spriteBit_before_origin s x y n (by omega), Bool.and_eq_false_iff, decide_eq_false_iff_not]
    exact .inl (by omega)

/-- A cell that is set lies in the grid. -/
theorem inside_of_pixel {col row : Nat} (h : s.pixel col row = true) : col < 64 ∧ row < 32 := by
  refine Decidable.byContradiction fun outside => ?_
  cases h.symm.trans (Framebuffer.cell_outside s.fb (by omega))

theorem spriteBit_iff_row (k r : Nat) : spriteBit s x y n (s.originX x + k) (s.originY y + r) = true ↔
    k < 8 ∧ (((s.spriteRows n)[r]?).getD 0).getLsbD (7 - k) = true := by
  rw [spriteBit_origin_add, getD_spriteRows]
  by_cases hr : r < n.toNat <;> simp [hr]

theorem hit_drawing_iff : (s.drawing x y n).hit = true ↔ Collides s x y n := by
  rw [drawing_eq_drawRows, hit_drawRows]
  constructor
  · rintro (h | ⟨r, k, hk, hb, hset⟩)
    · cases h
    · have inside := inside_of_pixel s hset
      exact ⟨_, _, inside.1, inside.2, (spriteBit_iff_row s x y n k r).mpr ⟨hk, hb⟩, hset⟩
  · rintro ⟨col, row, hcol, hrow, hb, hset⟩
    have from_origin : ¬ (col < s.originX x ∨ row < s.originY y) := fun h => by
      cases hb.symm.trans (spriteBit_before_origin s x y n h)
    obtain ⟨k, rfl⟩ := Nat.exists_eq_add_of_le (show s.originX x ≤ col by omega)
    obtain ⟨r, rfl⟩ := Nat.exists_eq_add_of_le (show s.originY y ≤ row by omega)
    obtain ⟨hk, hb⟩ := (spriteBit_iff_row s x y n k r).mp hb
    exact .inr ⟨r, k, hk, hb, hset⟩

variable {s x y n}

theorem exec_drw_of_fits (fits : n = 0 ∨ s.index.toNat + n.toNat - 1 ≤ 4095) :
    exec (.drw x y n) s = .next (effect (.drw x y n) s) := by
  refine exec_of_faultOf_none (if_neg ?_)
  rintro ⟨hpos, hlast⟩
  obtain rfl | hle := fits
  · exact absurd hpos (by decide)
  · omega

/-- A sprite's bits depend on its origin, on `I` and on memory. -/
theorem spriteBit_congr {t : State} (hx : t.reg x = s.reg x) (hy : t.reg y = s.reg y) (hindex : t.index = s.index)
    (hmem : SameMemory s t) (col row : Nat) : spriteBit t x y n col row = spriteBit s x y n col row := by
  simp only [spriteBit, hx, hy, hindex, hmem _]

end Sprite

/-- Settles O30: the effect is the drawn canvas, with the collision as the flag. -/
theorem drwTurnsOverTheSpritesCells : Obligations.DrwTurnsOverTheSpritesCells := by
  intro x y n s fits
  have hvF : (effect (.drw x y n) s).reg vF = flagByte (s.drawing x y n).hit := State.reg_setReg_same (s.setFb _) vF _
  refine ⟨_, exec_drw_of_fits fits, fun col row hcol hrow => cell_drawing s x y n hcol hrow, fun h => ?_, fun h => ?_,
    otherRegs_setFlag (s.setFb _) _, rfl, fun _ => rfl⟩
  · rw [hvF, (hit_drawing_iff s x y n).mpr h]; rfl
  · rw [hvF, Bool.eq_false_iff.mpr (mt (hit_drawing_iff s x y n).mp h)]; rfl

/-- Settles O31: at the same place the second sprite has the bits of the first, and turning a cell over twice leaves it; a
cell the first draw turned on is a collision of the second. -/
theorem drawingTwiceRestoresTheDisplay : Obligations.DrawingTwiceRestoresTheDisplay := by
  intro x y n s t fits h hx hy
  obtain ⟨t', h', drawn, -, -, -, frame, hmem⟩ := drwTurnsOverTheSpritesCells x y n s fits
  cases h.symm.trans h'
  have hindex : t.index = s.index := by rw [frame]
  have again := spriteBit_congr (n := n) hx hy hindex hmem
  obtain ⟨u, hu, redrawn, collides, -⟩ := drwTurnsOverTheSpritesCells x y n t (hindex ▸ fits)
  refine ⟨u, hu, Framebuffer.ext_cell fun col row hcol hrow => ?_, ?_⟩
  · refine (redrawn col row hcol hrow).trans ?_
    rw [drawn col row hcol hrow, again, Bool.xor_assoc, Bool.xor_self, Bool.xor_false]
    rfl
  · rintro ⟨col, row, hcol, hrow, hbit, hoff⟩
    refine collides ⟨col, row, hcol, hrow, (again col row).trans hbit, ?_⟩
    rw [drawn col row hcol hrow, hoff, hbit]
    rfl

end Sys2Proof.Machine
end

section
/-!
PROOFS. The cycle and the moves of the other agents (00_scope.md section 4, 60_exceptions.md sections 1, 4 and 6).
-/
namespace Sys2Proof

/-- Decoding two bytes and what follows is decoding the word they make (20_memory.md R73). -/
theorem decode_cons_cons (hi lo : Byte) (rest : List Byte) :
    decode (hi :: lo :: rest) = (decodeWord (wordOfBytes hi lo)).map (fun i => (i, rest)) := rfl

theorem decodeWord_of_decode_ok {hi lo : Byte} {rest : List Byte} {i : Instr}
    (h : decode (hi :: lo :: rest) = .ok (i, rest)) : decodeWord (wordOfBytes hi lo) = .ok i := by
  rw [decode_cons_cons] at h
  cases hw : decodeWord (wordOfBytes hi lo) with
  | ok j =>
    rw [hw] at h
    cases h
    rfl
  | error e =>
    rw [hw] at h
    cases h

theorem decodeWord_of_decode_error {hi lo : Byte} {rest : List Byte} {e : Reject}
    (h : decode (hi :: lo :: rest) = .error e) : decodeWord (wordOfBytes hi lo) = .error e := by
  rw [decode_cons_cons] at h
  cases hw : decodeWord (wordOfBytes hi lo) with
  | ok j =>
    rw [hw] at h
    cases h
  | error r =>
    rw [hw] at h
    cases h
    rfl

end Sys2Proof

namespace Sys2Proof.Machine
open Sys2Proof.Claims

section Cycle
variable {s : State}

theorem runInstruction_of_decode_ok {i : Instr} (hpc : s.pc.toNat ≤ 4094)
    (hd : decodeWord (wordOfBytes (s.byte s.pc.toNat) (s.byte (s.pc.toNat + 1))) = .ok i) :
    runInstruction s = exec i (s.setPc (s.pc + 2)) := by
  simp only [runInstruction, State.fetch_eq_some hpc, hd]

theorem runInstruction_of_decode_error {e : Reject} (hpc : s.pc.toNat ≤ 4094)
    (hd : decodeWord (wordOfBytes (s.byte s.pc.toNat) (s.byte (s.pc.toNat + 1))) = .error e) :
    runInstruction s = .next ((s.setPc (s.pc + 2)).unrecognized
      (wordOfBytes (s.byte s.pc.toNat) (s.byte (s.pc.toNat + 1)))) := by
  simp only [runInstruction, State.fetch_eq_some hpc, hd]

theorem runInstruction_of_out_of_range (hpc : 4095 ≤ s.pc.toNat) :
    runInstruction s = .next (s.raise .fetchOutOfRange s.pc 0) := by
  simp only [runInstruction, State.fetch_eq_none s hpc]

/-- A step is the move whose turn it is, taken off the schedule. -/
theorem step_of_nextMove {m : AgentMove} (hm : s.nextMove = m) : step s = runMove m s.moveTaken := by
  rw [step, hm]

/-- The CPU's move runs an instruction when nothing bars it (60_exceptions.md R247). -/
theorem step_of_cpu (hm : s.nextMove = .cpu) (hf : s.fault = none) (hl : s.loadFailed = false) :
    step s = runInstruction s.moveTaken.started := by
  rw [step_of_nextMove hm, runMove]
  obtain ⟨f, hsome, -⟩ | ⟨-, hfailed, -⟩ | ⟨-, -, e⟩ := cycle_cases s.moveTaken
  · cases hf.symm.trans hsome
  · cases hl.symm.trans hfailed
  · exact e

theorem unrecognized_of_fault {op : Word} (h : s.params.illegalPolicy = .fault) :
    s.unrecognized op = s.raise .illegalInstruction (s.pc - 2) op := by
  rw [State.unrecognized, h]

theorem unrecognized_of_skip {op : Word} (h : s.params.illegalPolicy = .skip) : s.unrecognized op = s := by
  rw [State.unrecognized, h]

/-- An unrecognized word is recorded or passed over. -/
theorem unrecognized_cases (s : State) (op : Word) :
    s.unrecognized op = s.raise .illegalInstruction (s.pc - 2) op ∨ s.unrecognized op = s := by
  cases h : s.params.illegalPolicy with
  | fault => exact .inl (unrecognized_of_fault h)
  | skip => exact .inr (unrecognized_of_skip h)

end Cycle

/-- Settles O6: the move is the CPU's and nothing bars it, and the two bytes fetched decode to `i`. -/
theorem stepRunsDecodedInstruction : Obligations.StepRunsDecodedInstruction := by
  intro s i rest hm hf hl hpc hd
  rw [step_of_cpu hm hf hl]
  exact runInstruction_of_decode_ok (s := s.moveTaken.started) hpc (decodeWord_of_decode_ok hd)

/-- Settles O7: the cycle has no word to decode. -/
theorem fetchOutOfRangeFaults : Obligations.FetchOutOfRangeFaults := by
  intro s hm hf hl hpc
  rw [step_of_cpu hm hf hl]
  exact runInstruction_of_out_of_range (s := s.moveTaken.started) hpc

/-- Settles O8: the cycle ends in the policy, and `pc` less 2 is the word's address again. -/
theorem unrecognizedWordFollowsThePolicy : Obligations.UnrecognizedWordFollowsThePolicy := by
  intro s e hm hf hl hpc hd
  refine ⟨_, (step_of_cpu hm hf hl).trans
    (runInstruction_of_decode_error (s := s.moveTaken.started) hpc (decodeWord_of_decode_error hd)), ?_, ?_⟩
  · intro hp
    refine (unrecognized_of_fault (s := s.moveTaken.started.setPc (s.pc + 2)) hp).trans ?_
    rw [State.setPc_pc, BitVec.add_sub_cancel]
    rfl
  · intro hp
    exact unrecognized_of_skip (s := s.moveTaken.started.setPc (s.pc + 2)) hp

/-- Settles O9: of the answers of a cycle only the refusal goes with a recorded fault. -/
theorem haltedCoreRunsNoCycle : Obligations.HaltedCoreRunsNoCycle := by
  intro s f hm hf
  rw [step_of_nextMove hm, runMove]
  obtain ⟨g, hg, e⟩ | ⟨hnone, -⟩ | ⟨hnone, -⟩ := cycle_cases s.moveTaken
  · cases hf.symm.trans hg
    exact e
  · cases hf.symm.trans hnone
  · cases hf.symm.trans hnone

/-- Settles O10: a recorded fault bars the CPU, and no other agent but a reset writes what is listed; a load writes memory. -/
theorem onlyResetEndsAHalt : Obligations.OnlyResetEndsAHalt := by
  intro s t hf hreset h
  obtain ⟨-, hnone, -⟩ | ⟨-, rfl⟩ | ⟨k, -, rfl⟩ | ⟨image, hm, -, -, rfl⟩ | ⟨image, -, -, -, rfl⟩ | ⟨-, rfl⟩ |
    ⟨q, p, hm, -⟩ := step_cases h
  · exact absurd hnone hf
  · exact ⟨rfl, rfl, rfl, rfl, rfl, rfl, rfl, rfl, fun _ _ => rfl⟩
  · exact ⟨rfl, rfl, rfl, rfl, rfl, rfl, rfl, rfl, fun _ _ => rfl⟩
  · exact ⟨rfl, rfl, rfl, rfl, rfl, rfl, rfl, rfl, fun hload => absurd hm (hload image)⟩
  · exact ⟨rfl, rfl, rfl, rfl, rfl, rfl, rfl, rfl, fun _ _ => rfl⟩
  · exact ⟨rfl, rfl, rfl, rfl, rfl, rfl, rfl, rfl, fun _ _ => rfl⟩
  · exact absurd hm (hreset q p)

theorem toNat_countDown (b : Byte) : (countDown b).toNat = if 0 < b.toNat then b.toNat - 1 else 0 := by
  unfold countDown
  split
  · next h => rw [h]; rfl
  · next h =>
    have hpos : 0 < b.toNat := Nat.pos_of_ne_zero fun h0 => h (BitVec.eq_of_toNat_eq h0)
    rw [if_pos hpos]
    exact BitVec.toNat_sub_of_le (BitVec.le_def.mpr hpos)

/-- Settles O11: a tick writes the two timers, each counted down. -/
theorem tickLowersBothTimers : Obligations.TickLowersBothTimers := by
  intro s hm
  exact ⟨s.moveTaken.tick, step_of_nextMove hm, toNat_countDown s.dt, toNat_countDown s.st, rfl, fun _ => rfl⟩

/-- Settles O12: each of the two is its own update of the state, and what the host reads is the grid itself. -/
theorem keyAndDisplayHostSteps : Obligations.KeyAndDisplayHostSteps :=
  ⟨fun _ _ hm => step_of_nextMove hm, fun _ hm => step_of_nextMove hm, fun _ _ _ => rfl⟩

/-- The image in memory, and every byte outside it as before. -/
theorem byte_withImage {s : State} {image : List Byte} (hlen : image.length ≤ 3584)
    (hwf : Memory.wf s.params.fontRom s.mem = true) (a : Nat) :
    (s.withImage image).byte a =
      if 0x200 ≤ a ∧ a < 0x200 + image.length then image.getD (a - 0x200) 0 else s.byte a :=
  Memory.read_writeAll _ hwf (show 0x200 + image.length ≤ 4096 by omega) a

/-- Settles O13: of the answers of a load the length and `loadable` select one. -/
theorem loadProgramCopiesTheImage : Obligations.LoadProgramCopiesTheImage := by
  intro s image hm
  have hstep : step s = loadProgram image s.moveTaken := step_of_nextMove hm
  obtain ⟨hl, hlen, e⟩ | ⟨hl, hlen, e⟩ | ⟨hl, e⟩ := loadProgram_cases s.moveTaken image
  · refine ⟨fun _ _ hwf => ⟨_, hstep.trans e, byte_withImage hlen hwf, rfl⟩, fun _ hlong => ?_, fun hoff => ?_⟩
    · omega
    · cases hl.symm.trans hoff
  · refine ⟨fun _ hshort => ?_, fun _ _ => ⟨_, hstep.trans e, rfl, fun _ => rfl⟩, fun hoff => ?_⟩
    · omega
    · cases hl.symm.trans hoff
  · exact ⟨fun hon => (nomatch hl.symm.trans hon), fun hon => (nomatch hl.symm.trans hon), fun _ => hstep.trans e⟩

/-- Nothing written, memory is the font between two stretches of zeros (10_state.md R47). -/
theorem resetByte_eq (rom : FontRom) (a : Nat) :
    resetByte rom a = if 0x050 ≤ a ∧ a ≤ 0x09F then rom.toList.getD (a - 0x050) 0 else 0 := by
  have hlen : rom.toList.length = 80 := rom.length_toList
  rw [resetByte, fontBase]
  by_cases below : a < 80
  · rw [if_pos below, if_neg (by omega)]
  · rw [if_neg below]
    by_cases font : a ≤ 0x09F
    · rw [if_pos (by omega), List.getD_eq_getElem?_getD, Vector.getElem?_toList]
    · rw [if_neg (by omega), Vector.getElem?_eq_none (by omega), Option.getD_none]

/-- Settles O14: the state a reset leaves is the table, but for memory and the grid, which are read. -/
theorem resetLeavesTheResetTable : Obligations.ResetLeavesTheResetTable := by
  intro s q p hm
  exact ⟨s.moveTaken.resetBy q p, step_of_nextMove hm, State.reg_resetWith q p, rfl, rfl, rfl, rfl, rfl, rfl,
    resetByte_eq p.fontRom, State.pixel_resetWith q p, rfl, rfl, rfl, rfl, rfl, rfl, rfl, rfl, rfl⟩

/-- Settles O57: the bar is read by the CPU's move alone, a load is not enabled with it, and no other move writes it or the
core. -/
theorem failedLoadBarsEveryCycle : Obligations.FailedLoadBarsEveryCycle := by
  refine ⟨fun s hm hf hl => ?_, fun s image _ hl hm => ?_, fun s _ hcpu hload => ?_, fun s t hfailed hl hf hreset h => ?_⟩
  · rw [step_of_nextMove hm, runMove]
    obtain ⟨f, hsome, -⟩ | ⟨-, -, e⟩ | ⟨-, hok, -⟩ := cycle_cases s.moveTaken
    · cases hf.symm.trans hsome
    · exact e
    · cases hl.symm.trans hok
  · exact (loadProgramCopiesTheImage s image hm).2.2 hl
  · cases hm : s.nextMove with
    | cpu => exact absurd hm hcpu
    | loadProgram image => exact absurd hm (hload image)
    | tick | setKey _ | getFramebuffer | reset _ _ => exact ⟨_, step_of_nextMove hm⟩
  · obtain ⟨-, -, hok, -⟩ | ⟨-, rfl⟩ | ⟨k, -, rfl⟩ | ⟨image, -, hon, -⟩ | ⟨image, -, hon, -⟩ | ⟨-, rfl⟩ |
      ⟨q, p, hm, -⟩ := step_cases h
    · cases hfailed.symm.trans hok
    · exact ⟨hfailed, hl, rfl, rfl, rfl, rfl, fun _ => rfl, rfl, hf, rfl, rfl⟩
    · exact ⟨hfailed, hl, rfl, rfl, rfl, rfl, fun _ => rfl, rfl, hf, rfl, rfl⟩
    · cases hl.symm.trans hon
    · cases hl.symm.trans hon
    · exact ⟨hfailed, hl, rfl, rfl, rfl, rfl, fun _ => rfl, rfl, hf, rfl, rfl⟩
    · exact absurd hm (hreset q p)

/-! ### The configuration -/

section Configuration
variable {s t : State}

theorem exec_keeps_configuration {i : Instr} (h : exec i s = .next t) : t.quirks = s.quirks ∧ t.params = s.params := by
  obtain ⟨-, rfl⟩ | ⟨f, -, rfl⟩ := exec_cases h
  · exact ⟨effect_quirks i s, effect_params i s⟩
  · exact ⟨rfl, rfl⟩

theorem unrecognized_keeps_configuration (op : Word) :
    (s.unrecognized op).quirks = s.quirks ∧ (s.unrecognized op).params = s.params := by
  obtain e | e := unrecognized_cases s op <;> rw [e] <;> exact ⟨rfl, rfl⟩

theorem runInstruction_keeps_configuration (h : runInstruction s = .next t) :
    t.quirks = s.quirks ∧ t.params = s.params := by
  obtain ⟨-, e⟩ | ⟨-, i, -, e⟩ | ⟨-, r, -, e⟩ := runInstruction_cases s
  · cases e.symm.trans h
    exact ⟨rfl, rfl⟩
  · exact exec_keeps_configuration (s := s.setPc (s.pc + 2)) (e.symm.trans h)
  · cases e.symm.trans h
    exact unrecognized_keeps_configuration (s := s.setPc (s.pc + 2)) _

end Configuration

/-- Settles O53: the CPU's move keeps the configuration, and every other move but a reset is an update of other fields. -/
theorem configurationIsFixedBetweenResets : Obligations.ConfigurationIsFixedBetweenResets := by
  intro s t hreset h
  obtain ⟨-, -, -, run⟩ | ⟨-, rfl⟩ | ⟨k, -, rfl⟩ | ⟨image, -, -, -, rfl⟩ | ⟨image, -, -, -, rfl⟩ | ⟨-, rfl⟩ |
    ⟨q, p, hm, -⟩ := step_cases h
  · exact runInstruction_keeps_configuration (s := s.moveTaken.started) run
  · exact ⟨rfl, rfl⟩
  · exact ⟨rfl, rfl⟩
  · exact ⟨rfl, rfl⟩
  · exact ⟨rfl, rfl⟩
  · exact ⟨rfl, rfl⟩
  · exact absurd hm (hreset q p)

end Sys2Proof.Machine
end

section
/-!
PROOFS. The invariant (10_state.md sections 2, 5 and 6; 60_exceptions.md section 1). An instruction is executed in a state
that a fetch has left; from such a state its effect and each of its faults meet the invariant.
-/
namespace Sys2Proof.Machine
open Sys2Proof.Claims

/-- The states an instruction is executed in: the cycle has started, nothing bars it, and a fetch has advanced `pc`. -/
structure State.Executing (s : State) : Prop where
  /-- Memory is in canonical form. -/
  mem : Memory.wf s.params.fontRom s.mem = true
  /-- The stack holds at most STACK_DEPTH entries. -/
  depth : s.stack.length ≤ s.params.stackDepth
  /-- Every return address is at most 4096. -/
  returns : ∀ t ∈ s.stack, t.toNat ≤ memSize
  /-- The fetch has advanced `pc` by 2. -/
  fetchedFrom : 2 ≤ s.pc.toNat
  /-- The fetch was from 4094 at most. -/
  fetched : s.pc.toNat ≤ 4096
  /-- No fault is recorded. -/
  fault : s.fault = none
  /-- The record holds no address. -/
  faultAddr : s.faultAddr = 0
  /-- The record holds no word. -/
  faultOpcode : s.faultOpcode = 0
  /-- No load is enabled any more. -/
  started : s.loadable = false
  /-- No load has failed. -/
  notFailed : s.loadFailed = false

section Record
variable {s : State}

/-- Of a state in which a cycle runs nothing is said about a state in which none can have run. -/
theorem not_unstarted (hstarted : s.loadable = false) (hl : s.loadFailed = false) :
    ¬ (s.loadable = true ∨ s.loadFailed = true) := by
  simp [hstarted, hl]

theorem faultRecordOk_of_fault_none (hf : s.fault = none) :
    s.faultRecordOk = true ↔ s.faultAddr = 0 ∧ s.faultOpcode = 0 := by
  rw [State.faultRecordOk, hf, Bool.and_eq_true, beq_iff_eq, beq_iff_eq]

theorem faultRecordOk_raise {f : FaultKind} (hf : f ≠ .fetchOutOfRange) (op : Word) :
    (s.raise f (s.pc - 2) op).faultRecordOk = true := by
  have hpc : (s.pc == s.pc - 2 + 2) = true := beq_iff_eq.mpr (BitVec.sub_add_cancel s.pc 2).symm
  cases f with
  | fetchOutOfRange => exact absurd rfl hf
  | _ => exact hpc

end Record

/-! ### From a state an instruction is executed in -/

section Executing
variable {s : State} (hs : s.Executing)
include hs

/-- Without a record, with `pc` in bounds and the rest in form, a started state meets the invariant. -/
theorem State.Executing.inv_of_frame {t : State} (hfault : t.fault = s.fault) (haddr : t.faultAddr = s.faultAddr)
    (hopcode : t.faultOpcode = s.faultOpcode) (hloadable : t.loadable = s.loadable)
    (hmem : Memory.wf t.params.fontRom t.mem = true) (hdepth : t.stack.length ≤ t.params.stackDepth)
    (hreturns : ∀ a ∈ t.stack, a.toNat ≤ memSize) (hpc : t.pc.toNat ≤ pcLimit) : t.Inv where
  mem := hmem
  depth := hdepth
  returns := hreturns
  pc := hpc
  record := (faultRecordOk_of_fault_none (hfault.trans hs.fault)).mpr
    ⟨haddr.trans hs.faultAddr, hopcode.trans hs.faultOpcode⟩
  unstarted := fun _ => hfault.trans hs.fault
  oneLoad := fun _ => hloadable.trans hs.started

theorem State.Executing.pc_le : s.pc.toNat ≤ pcLimit := Nat.le_trans hs.fetched (by decide)

theorem State.Executing.inv : s.Inv :=
  hs.inv_of_frame rfl rfl rfl rfl hs.mem hs.depth hs.returns hs.pc_le

theorem State.Executing.inv_raise {f : FaultKind} (hf : f ≠ .fetchOutOfRange) (op : Word) :
    (s.raise f (s.pc - 2) op).Inv where
  mem := hs.mem
  depth := hs.depth
  returns := hs.returns
  pc := hs.pc_le
  record := faultRecordOk_raise hf op
  unstarted := fun h => absurd h (not_unstarted hs.started hs.notFailed)
  oneLoad := fun _ => hs.started

/-- A store that does not fault lies inside memory. -/
theorem State.Executing.wf_effect_mem {i : Instr} (hnone : faultOf i s = none) :
    Memory.wf (effect i s).params.fontRom (effect i s).mem = true := by
  rw [effect_params]
  cases i with
  | ldB x =>
    have fits : ¬ 4095 < s.index.toNat + 2 := fun h => nomatch hnone.symm.trans (if_pos h)
    exact Memory.wf_writeAll _ (bs := digits (s.reg x)) hs.mem (show s.index.toNat + 3 ≤ 4096 by omega)
  | stRegs x =>
    have fits : ¬ 4095 < s.index.toNat + x.toNat := fun h => nomatch hnone.symm.trans (if_pos h)
    refine Memory.wf_writeAll _ hs.mem ?_
    rw [State.length_lowRegs, memSize]
    omega
  | _ =>
    rw [effect_mem s (by simp [Instr.mnemonic])]
    exact hs.mem

/-- A call that does not fault has room, and pushes an address a fetch has left. -/
theorem State.Executing.effect_stack_bounds {i : Instr} (hnone : faultOf i s = none) :
    (effect i s).stack.length ≤ s.params.stackDepth ∧ ∀ a ∈ (effect i s).stack, a.toNat ≤ memSize := by
  cases i with
  | call nnn =>
    have room : ¬ s.params.stackDepth ≤ s.stack.length := fun h => nomatch hnone.symm.trans (if_pos h)
    exact ⟨show s.stack.length + 1 ≤ _ by omega, List.forall_mem_cons.mpr ⟨hs.fetched, hs.returns⟩⟩
  | ret =>
    have shorter : s.stack.tail.length ≤ s.stack.length := by simp
    exact ⟨Nat.le_trans shorter hs.depth, fun a ha => hs.returns a (List.mem_of_mem_tail ha)⟩
  | _ =>
    rw [effect_stack s (by simp [Instr.mnemonic])]
    exact ⟨hs.depth, hs.returns⟩

/-- The farthest `pc` goes is a jump with offset, 0xFFF and 0xFF (10_state.md R37). -/
theorem State.Executing.pcAfter_le (i : Instr) : pcAfter i s ≤ pcLimit := by
  have hpc := hs.fetched
  have literal : ∀ nnn : Addr, nnn.toNat < 4096 := fun nnn => nnn.isLt
  rw [show pcLimit = 4350 from rfl]
  cases i with
  | jp nnn | call nnn => exact Nat.le_trans (Nat.le_of_lt (literal nnn)) (by decide)
  | jpOff x nnn =>
    have hn := literal nnn
    have hr : (s.reg x).toNat < 256 := (s.reg x).isLt
    rw [pcAfter]
    split <;> omega
  | ret =>
    rw [pcAfter]
    cases hstack : s.stack with
    | nil => decide
    | cons a rest => exact Nat.le_trans (hs.returns a (by simp [hstack])) (by decide)
  | seImm _ _ | sneImm _ _ | seReg _ _ | sneReg _ _ | skp _ | sknp _ | ldVxK _ =>
    rw [pcAfter]
    split <;> omega
  | _ => exact Nat.le_trans hpc (by decide)

theorem State.Executing.inv_effect {i : Instr} (hnone : faultOf i s = none) : (effect i s).Inv := by
  obtain ⟨hdepth, hreturns⟩ := hs.effect_stack_bounds hnone
  refine hs.inv_of_frame (effect_fault i s) (effect_faultAddr i s) (effect_faultOpcode i s) (effect_loadable i s)
    (hs.wf_effect_mem hnone) (by rwa [effect_params]) hreturns ?_
  rw [toNat_effect_pc s i hs.fetchedFrom hs.fetched]
  exact hs.pcAfter_le i

end Executing

/-- No instruction's own fault is the one of Fetch (60_exceptions.md R221). -/
theorem ne_fetchOutOfRange_of_faultOf {i : Instr} {s : State} {f : FaultKind} (h : faultOf i s = some f) :
    f ≠ .fetchOutOfRange := by
  rintro rfl
  cases i with
  | ret | call _ | drw _ _ _ | ldB _ | stRegs _ | ldRegs _ => simp [faultOf] at h
  | _ => cases h

theorem inv_exec {i : Instr} {s t : State} (hs : s.Executing) (h : exec i s = .next t) : t.Inv := by
  obtain ⟨hnone, rfl⟩ | ⟨f, hsome, rfl⟩ := exec_cases h
  · exact hs.inv_effect hnone
  · exact hs.inv_raise (ne_fetchOutOfRange_of_faultOf hsome) (encodeWord i)

/-! ### From a state between steps -/

section Invariant
variable {s t : State} (hs : s.Inv)
include hs

theorem State.Inv.executing (hf : s.fault = none) (hl : s.loadFailed = false) (hstarted : s.loadable = false)
    (hpc : s.pc.toNat ≤ 4094) : (s.setPc (s.pc + 2)).Executing := by
  obtain ⟨haddr, hopcode⟩ := (faultRecordOk_of_fault_none hf).mp hs.record
  have hnext : (s.pc + 2).toNat = s.pc.toNat + 2 := toNat_pc_add_two s (by omega)
  exact ⟨hs.mem, hs.depth, hs.returns, by rw [State.setPc_pc]; omega, by rw [State.setPc_pc]; omega, hf, haddr, hopcode,
    hstarted, hl⟩

/-- A fetch that cannot be made leaves `pc` at the address the record holds (20_memory.md R80). -/
theorem State.Inv.inv_raise_fetchOutOfRange (hl : s.loadFailed = false) (hstarted : s.loadable = false)
    (hpc : 4095 ≤ s.pc.toNat) : (s.raise .fetchOutOfRange s.pc 0).Inv where
  mem := hs.mem
  depth := hs.depth
  returns := hs.returns
  pc := hs.pc
  record := by
    change (s.pc == s.pc && (0 : Word) == 0 && decide (4095 ≤ s.pc.toNat)) = true
    simp [hpc]
  unstarted := fun h => absurd h (not_unstarted hstarted hl)
  oneLoad := fun _ => hstarted

theorem State.Inv.inv_runInstruction (hf : s.fault = none) (hl : s.loadFailed = false) (hstarted : s.loadable = false)
    (h : runInstruction s = .next t) : t.Inv := by
  obtain ⟨hpc, e⟩ | ⟨hpc, i, -, e⟩ | ⟨hpc, r, -, e⟩ := runInstruction_cases s
  · cases e.symm.trans h
    exact hs.inv_raise_fetchOutOfRange hl hstarted hpc
  · exact inv_exec (hs.executing hf hl hstarted hpc) (e.symm.trans h)
  · have hexec := hs.executing hf hl hstarted hpc
    cases e.symm.trans h
    obtain e | e := unrecognized_cases (s.setPc (s.pc + 2)) (wordOfBytes (s.byte s.pc.toNat) (s.byte (s.pc.toNat + 1)))
    · rw [e]
      exact hexec.inv_raise (by decide) _
    · rw [e]
      exact hexec.inv

theorem State.Inv.moveTaken : s.moveTaken.Inv :=
  ⟨hs.mem, hs.depth, hs.returns, hs.pc, hs.record, hs.unstarted, hs.oneLoad⟩

theorem State.Inv.tick : s.tick.Inv :=
  ⟨hs.mem, hs.depth, hs.returns, hs.pc, hs.record, hs.unstarted, hs.oneLoad⟩

theorem State.Inv.setKey (k : Option Key) : (s.setKey k).Inv :=
  ⟨hs.mem, hs.depth, hs.returns, hs.pc, hs.record, hs.unstarted, hs.oneLoad⟩

/-- A cycle may start: with no load enabled what is said of unstarted states is about a failed load alone. -/
theorem State.Inv.started : s.started.Inv :=
  ⟨hs.mem, hs.depth, hs.returns, hs.pc, hs.record, fun h => hs.unstarted (h.imp_left (fun h => nomatch h)), fun _ => rfl⟩

theorem State.Inv.withImage (hl : s.loadable = true) {image : List Byte} (hlen : image.length ≤ 3584) :
    (s.withImage image).Inv :=
  ⟨Memory.wf_writeAll _ hs.mem (show 0x200 + image.length ≤ 4096 by omega), hs.depth, hs.returns, hs.pc, hs.record,
    fun _ => hs.unstarted (.inl hl), fun _ => rfl⟩

theorem State.Inv.failLoad (hl : s.loadable = true) : s.failLoad.Inv :=
  ⟨hs.mem, hs.depth, hs.returns, hs.pc, hs.record, fun _ => hs.unstarted (.inl hl), fun _ => rfl⟩

end Invariant

/-- A reset state meets the invariant whatever is scheduled and however many bytes have been drawn. -/
theorem inv_resetWith (q : Quirks) (p : Params) (l : List AgentMove) (d : Nat) :
    State.Inv { State.resetWith q p with schedule := l, draws := d } where
  mem := rfl
  depth := Nat.zero_le _
  returns := fun _ h => nomatch h
  pc := show 0x200 ≤ 4350 by decide
  record := rfl
  unstarted := fun _ => rfl
  oneLoad := fun h => nomatch h

/-- Settles O54: both are reset states, with no byte drawn. -/
theorem constructionMeetsTheInvariant : Obligations.ConstructionMeetsTheInvariant :=
  ⟨inv_resetWith defaultQuirks defaultParams [] 0, fun q p l => inv_resetWith q p l 0⟩

/-- Settles O55: each of the seven things a step can be keeps the invariant. -/
theorem everyStepKeepsTheInvariant : Obligations.EveryStepKeepsTheInvariant := by
  intro s t hs h
  obtain ⟨-, hf, hl, run⟩ | ⟨-, rfl⟩ | ⟨k, -, rfl⟩ | ⟨image, -, hl, hlen, rfl⟩ | ⟨image, -, hl, -, rfl⟩ | ⟨-, rfl⟩ |
    ⟨q, p, -, rfl⟩ := step_cases h
  · exact hs.moveTaken.started.inv_runInstruction hf hl rfl run
  · exact hs.moveTaken.tick
  · exact hs.moveTaken.setKey k
  · exact hs.moveTaken.withImage hl hlen
  · exact hs.moveTaken.failLoad hl
  · exact hs.moveTaken
  · exact inv_resetWith q p s.schedule.tail s.draws

theorem Runs.inv {s t : State} (h : Runs s t) (hs : s.Inv) : t.Inv := by
  induction h with
  | none => exact hs
  | step _ last ih => exact everyStepKeepsTheInvariant _ _ ih last

/-- Settles O56: a run from construction stays in the invariant, which has the three bounds. -/
theorem runsStayWithinTheBounds : Obligations.RunsStayWithinTheBounds := by
  intro q p l t h
  have ht : t.Inv := h.inv (constructionMeetsTheInvariant.2 q p l)
  exact ⟨ht.pc, ht.depth, ht.mem⟩

end Sys2Proof.Machine
end
